-- ==== Sys2Proof/Word.lean ====
section
/-! DEFINITION. The two value types of the block: the byte, its unit of transfer, and the 16-bit value (R9, R47). -/

namespace Sys2Proof

/-- A byte, 8 bits (R9). -/
abbrev Byte := BitVec 8

/-- A 16-bit value: a remainder, a checksum, a register number, a register value (R9, R47). -/
abbrev Word := BitVec 16

end Sys2Proof
end

