-- ==== Sys2Proof/Config.lean ====
section
/-! DEFINITION. What is fixed when the block is built: the constants of R6, the parameters of R7, and the free values that
stand for behaviour of the line that no rule determines (R8, R133). -/

namespace Sys2Proof

/-- START, the frame start delimiter (R6). -/
def START : Byte := 0x0A
/-- END, the frame end delimiter (R6). -/
def END : Byte := 0x0D
/-- CRC_INIT, the initial remainder (R6). -/
def CRC_INIT : Word := 0xFFFF
/-- CRC_POLY, the XOR constant after a shift that dropped a 1 bit (R6). -/
def CRC_POLY : Word := 0xA001
/-- FC_READ_HOLDING, the function code of every frame REG.READ builds (R6, R150). -/
def FC_READ_HOLDING : Byte := 0x03
/-- MAX_ATTEMPTS, the read attempts of one transaction (R6, R136). -/
abbrev MAX_ATTEMPTS : Nat := 2
/-- MIN_SPAN_READY, the smallest span that is reported ready (R6, R112). -/
abbrev MIN_SPAN_READY : Nat := 3
/-- MIN_FRAME, the smallest span that can be valid (R7, R114, D6). -/
abbrev MIN_FRAME : Nat := 6
/-- RSP_OVERHEAD, the constant term of the expected response length (R6, R151). -/
abbrev RSP_OVERHEAD : Nat := 7
/-- FILLER, the null byte that marks a line artifact at the head of a read (R7, R69, D5; log 21). -/
def FILLER : Byte := 0x00

/-- The parameters of R7 that a rule reads. They are fixed when the block is built and no operation writes them (R29);
`none` is an unbounded capacity. Log 6. -/
structure Params where
  /-- BUF_CAP, the capacity of `buf` in bytes. -/
  bufCap : Option Nat
  /-- RXQ_CAP, the capacity of `rxq` in bytes. -/
  rxqCap : Option Nat
  /-- MAX_POINTS, 1 to 65535: the largest register count REG.READ accepts. -/
  maxPoints : Word
  /-- RSP_HDR_BYTES = 1: a byte count stands before the register data of a response (D17). -/
  byteCountByte : Bool
deriving DecidableEq, Repr

/-- RSP_HDR_BYTES as a number, 0 or 1 (R7). -/
def Params.rspHdrBytes (p : Params) : Nat := if p.byteCountByte then 1 else 0

/-- R7's range of MAX_POINTS; the other parameters have no further condition. -/
def Params.wf (p : Params) : Bool := p.maxPoints != 0

/-- The parameter values 95_test_vectors.md starts from: unbounded buffers, MAX_POINTS = 65535, RSP_HDR_BYTES = 1. -/
def Params.default : Params :=
  { bufCap := none, rxqCap := none, maxPoints := 0xFFFF, byteCountByte := true }

/-- Does a buffer of `n` bytes fit the capacity (D11)? -/
def fits (cap : Option Nat) (n : Nat) : Bool :=
  match cap with
  | none => true
  | some c => decide (n ≤ c)

/-- What a FIFO of the given capacity keeps of a byte sequence: its first bytes, up to the capacity (R52; log 11). -/
def clip (cap : Option Nat) (bs : List Byte) : List Byte :=
  match cap with
  | none => bs
  | some c => bs.take c

/-- FREE VALUE: the bytes the line brings at its n-th unscripted read (R8, R133, U4; log 3). -/
opaque Config.freeArrivals : Nat → List Byte
/-- FREE VALUE: how many bytes the n-th unscripted read takes at most (R133, U2, U4; log 3). -/
opaque Config.freeCount : Nat → Nat
/-- FREE VALUE: what stands in `rxq` after the reset input has been asserted (R37, U5; log 13). -/
opaque Config.freeRxq : Nat → List Byte

end Sys2Proof
end

