-- ==== Sys2Proof/Machine/Operands.lean ====
section
/-! DEFINITION. The operand forms of the block: searches, slices, fixed offsets and the two byte orders (R9, R42, R43, R121). -/

namespace Sys2Proof.Machine

/-- `first(s, c)`: the smallest index at which `c` stands (R9). -/
def firstIdx (c : Byte) : List Byte → Option Nat
  | [] => none
  | b :: bs => if b = c then some 0 else (firstIdx c bs).map (· + 1)

/-- `last(s, c)`: the largest index at which `c` stands (R9). -/
def lastIdx (c : Byte) : List Byte → Option Nat
  | [] => none
  | b :: bs =>
    match lastIdx c bs with
    | some i => some (i + 1)
    | none => if b = c then some 0 else none

/-- `s[a:b]`, the half-open slice; `[]` whenever `b <= a` (R9). -/
def slice (s : List Byte) (a b : Nat) : List Byte := (s.take b).drop a

/-- `s[i]`; every rule guards its indices (R9), so the default is never read. -/
def byteAt (s : List Byte) (i : Nat) : Byte := s.getD i 0

/-- `u16_be(h, l)`: the byte at the lower index is bits 15:8 (R9, R43). -/
def u16be (h l : Byte) : Word := h ++ l

/-- `u16_le(l, h)`: the byte at the lower index is bits 7:0 (R9, R42). -/
def u16le (l h : Byte) : Word := h ++ l

/-- `be_bytes(v)` (R9, R43). -/
def beBytes (v : Word) : List Byte := [v.extractLsb' 8 8, v.extractLsb' 0 8]

/-- `le_bytes(v)` (R9, R42, R92). -/
def leBytes (v : Word) : List Byte := [v.extractLsb' 0 8, v.extractLsb' 8 8]

/-- The registers of a response's register data: consecutive big-endian pairs, in order (R43, R152). -/
def registersOf : List Byte → List Word
  | h :: l :: rest => u16be h l :: registersOf rest
  | _ => []

/-- The register data of a response: each register high byte first (R63). -/
def registerBytes : List Word → List Byte
  | [] => []
  | w :: ws => beBytes w ++ registerBytes ws

/-- `exp_len = 2 * num_points + 7` in 18 bits, which it never wraps (R24, R151). -/
def expectedLength (points : Word) : BitVec 18 := BitVec.ofNat 18 (2 * points.toNat + RSP_OVERHEAD)

end Sys2Proof.Machine
end

