-- ==== Sys2Proof/Machine/Checksum.lean ====
section
/-! DEFINITION. The function `crc16` of the Checksum unit (R91) and the frame it goes into (R101). -/

namespace Sys2Proof.Machine

/-- One of the 8 iterations: the low bit before the shift decides whether CRC_POLY is XORed in (R91 step 3). -/
def crcBit (r : Word) : Word := if r.getLsbD 0 then (r >>> 1) ^^^ CRC_POLY else r >>> 1

/-- `n` iterations of the inner loop (R91 step 3). -/
def crcBits : Nat → Word → Word
  | 0, r => r
  | n + 1, r => crcBits n (crcBit r)

/-- One input byte: XOR it into the low byte, then 8 iterations (R91 steps 2 and 3). -/
def crcByte (r : Word) (b : Byte) : Word := crcBits 8 (r ^^^ b.zeroExtend 16)

/-- The loop of R91 continued over the bytes from a remainder. -/
def crcFrom (r : Word) : List Byte → Word
  | [] => r
  | b :: bs => crcFrom (crcByte r b) bs

/-- `crc16(s)` (R91). -/
def crc16 (s : List Byte) : Word := crcFrom CRC_INIT s

/-- The checksummed region of a frame: address, function code, payload (R98). -/
def frameBody (address functionCode : Byte) (payload : List Byte) : List Byte :=
  address :: functionCode :: payload

/-- START, a checksummed region, its checksum low byte first, and a last byte (R60, R63). -/
def wrap (body : List Byte) (last : Byte) : List Byte :=
  START :: (body ++ (leBytes (crc16 body) ++ [last]))

/-- `encode_frame` (R101). -/
def encodeFrame (address functionCode : Byte) (payload : List Byte) : List Byte :=
  wrap (frameBody address functionCode payload) END

/-- The request payload of a register read: starting register and count, both big-endian (R62, R150). -/
def requestPayload (start points : Word) : List Byte := beBytes start ++ beBytes points

/-- The checksummed region of a frame or candidate of length L: `s[1 : L-3]`, from the address byte through the byte
before the 3-byte tail (R98, R138). -/
def checksumRegion (s : List Byte) : List Byte := slice s 1 (s.length - 3)

/-- The checksum a frame carries: the two bytes before its last byte, low byte first (R42, R138). -/
def checksumField (s : List Byte) : Word := u16le (byteAt s (s.length - 3)) (byteAt s (s.length - 2))

/-- The payload of a frame: without START, address and function code in front and the 3-byte tail behind (R116, R152). -/
def payloadOf (s : List Byte) : List Byte := slice s 3 (s.length - 3)

end Sys2Proof.Machine
end

