-- ==== Sys2Proof/Syntax.lean ====
section
/-! DEFINITION. The instructions: one constructor per row of spec/opcode_table.json (R66, R70, R60, R62, R63, R69). -/

namespace Sys2Proof

/-- The rows of the operation table: the ten operations of R66, every other op code (R70), the three wire formats (R60,
R62, R63) and the four first-byte classes of a read (R69). -/
inductive Instr where
  /-- CRC.COMPUTE (R93). -/
  | crcCompute (data : List Byte)
  /-- CRC.VALIDATE (R94). -/
  | crcValidate (data : List Byte) (expected : Word)
  /-- FRM.ENCODE (R101). -/
  | frmEncode (address functionCode : Byte) (payload : List Byte)
  /-- FRM.FEED (R111). -/
  | frmFeed (data : List Byte)
  /-- FRM.TRY_DECODE (R112 to R115). -/
  | frmTryDecode
  /-- FRM.PAYLOAD (R116). -/
  | frmPayload
  /-- FRM.ADVANCE (R117). -/
  | frmAdvance
  /-- FRM.RESET (R118). -/
  | frmReset
  /-- CH.TRANSACT (R130). -/
  | chTransact (address functionCode : Byte) (payload : List Byte) (expLen : BitVec 18)
  /-- REG.READ (R150). -/
  | regRead (address : Byte) (start points : Word)
  /-- Any other op code (R70 (a)). -/
  | anyOtherOp (op : Byte)
  /-- FRAME, a frame on the wire (R60). -/
  | frame (address functionCode : Byte) (payload : List Byte)
  /-- REQUEST_READ_HOLDING, a request frame on the wire (R62). -/
  | requestReadHolding (address : Byte) (start points : Word)
  /-- RESPONSE_READ_HOLDING, a response frame on the wire (R63); `byteCount` is there when RSP_HDR_BYTES = 1, and the last
  byte is whatever the sender put there (R141). -/
  | responseReadHolding (address functionCode : Byte) (byteCount : Option Byte) (regs : List Word) (last : Byte)
  /-- READ_EMPTY: a read that returned no byte (R69). -/
  | readEmpty
  /-- READ_FILLER_LED: a read that returned FILLER and then `rest` (R69). -/
  | readFillerLed (rest : List Byte)
  /-- READ_OTHER_LED: a read whose first byte is neither FILLER nor START (R69). -/
  | readOtherLed (first : Byte) (rest : List Byte)
  /-- READ_START_LED: a read that returned START and then `rest` (R69). -/
  | readStartLed (rest : List Byte)
deriving DecidableEq, Repr

/-- What the host puts on the command interface: one 8-bit op code and the typed operand ports (R65, R66). An operation
reads the ports of its own operands and no other. Log 1. -/
structure Command where
  op : Byte
  /-- u8: FRM.ENCODE, CH.TRANSACT, REG.READ. -/
  address : Byte := 0
  /-- u8: FRM.ENCODE, CH.TRANSACT. -/
  functionCode : Byte := 0
  /-- seq: `data` of CRC.COMPUTE, CRC.VALIDATE, FRM.FEED; `payload` of FRM.ENCODE, CH.TRANSACT. -/
  data : List Byte := []
  /-- u16: CRC.VALIDATE. -/
  expected : Word := 0
  /-- u18: CH.TRANSACT. -/
  expLen : BitVec 18 := 0
  /-- u16: `starting_register` of REG.READ. -/
  start : Word := 0
  /-- u16: `num_points` of REG.READ. -/
  points : Word := 0
deriving DecidableEq, Repr

/-- The encoded form of an instruction, by the `format` of its row in the table: a command, the bytes of one of the three
wire formats, or the bytes one read returned. -/
inductive Encoding where
  | command (c : Command)
  | wireFrame (bs : List Byte)
  | wireRequest (bs : List Byte)
  | wireResponse (bs : List Byte)
  | read (bs : List Byte)
deriving DecidableEq, Repr

end Sys2Proof
end

