-- ==== Sys2Proof/WellFormed.lean ====
section
/-! DEFINITION. Which instruction terms stand for a row of the table: the conditions a row's `match` column or R63 puts on
the operands beyond their types. -/

namespace Sys2Proof

/-- The op codes of R66. -/
def opCodes : List Byte := [0x01, 0x02, 0x10, 0x11, 0x12, 0x13, 0x14, 0x15, 0x20, 0x21]

/-- The operands a row admits: any_other_op is none of R66's codes (R70), READ_OTHER_LED begins with neither FILLER nor
START (R69), and a response has the byte count exactly when RSP_HDR_BYTES = 1 and 1 to 65535 registers (R63, R7). -/
def Instr.wellFormed (p : Params) (i : Instr) : Bool :=
  match i with
  | .crcCompute _ => true
  | .crcValidate _ _ => true
  | .frmEncode _ _ _ => true
  | .frmFeed _ => true
  | .frmTryDecode => true
  | .frmPayload => true
  | .frmAdvance => true
  | .frmReset => true
  | .chTransact _ _ _ _ => true
  | .regRead _ _ _ => true
  | .anyOtherOp op => !opCodes.contains op
  | .frame _ _ _ => true
  | .requestReadHolding _ _ _ => true
  | .responseReadHolding _ _ bc regs _ =>
      bc.isSome == p.byteCountByte && decide (1 ≤ regs.length) && decide (regs.length ≤ 65535)
  | .readEmpty => true
  | .readFillerLed _ => true
  | .readOtherLed b _ => b != FILLER && b != START
  | .readStartLed _ => true

end Sys2Proof
end

