-- ==== Sys2Proof/Decode.lean ====
section
/-! DEFINITION. From encoded form to instruction and back: commands by op code (R66, R70), wire bytes by the three layouts
(R60, R62, R63), the bytes of a read by R69's four classes; then the encoder, written from the same layouts. -/

namespace Sys2Proof

open Machine

/-- Why bytes are not an instance of a wire format. -/
inductive DecodeError where
  /-- fewer bytes than the format's smallest frame (R60: six). -/
  | tooShort
  /-- byte 0 is not START. -/
  | badStart
  /-- the last byte is not END, in a format that fixes it. -/
  | badEnd
  /-- the carried checksum is not that of the region. -/
  | badChecksum
  /-- the length is not one the format has. -/
  | badLength
  /-- byte 2 is not 0x03, in the format that fixes it (R62). -/
  | badFunctionCode
deriving DecidableEq, Repr

/-- The operation a command names: the op codes of R66, every other code refused as any_other_op (R70 (a)). -/
def decodeCommand (c : Command) : Instr :=
  if c.op = 0x01 then .crcCompute c.data
  else if c.op = 0x02 then .crcValidate c.data c.expected
  else if c.op = 0x10 then .frmEncode c.address c.functionCode c.data
  else if c.op = 0x11 then .frmFeed c.data
  else if c.op = 0x12 then .frmTryDecode
  else if c.op = 0x13 then .frmPayload
  else if c.op = 0x14 then .frmAdvance
  else if c.op = 0x15 then .frmReset
  else if c.op = 0x20 then .chTransact c.address c.functionCode c.data c.expLen
  else if c.op = 0x21 then .regRead c.address c.start c.points
  else .anyOtherOp c.op

/-- What every wire format has: at least six bytes, START first, a matching checksum before the last byte (R60, R63). -/
def checkWire (bs : List Byte) : Except DecodeError Unit :=
  if bs.length < MIN_FRAME then .error .tooShort
  else if byteAt bs 0 ≠ START then .error .badStart
  else if crc16 (checksumRegion bs) ≠ checksumField bs then .error .badChecksum
  else .ok ()

/-- FRAME (R60). -/
def decodeFrame (bs : List Byte) : Except DecodeError Instr :=
  match checkWire bs with
  | .error e => .error e
  | .ok () =>
    if byteAt bs (bs.length - 1) ≠ END then .error .badEnd
    else .ok (.frame (byteAt bs 1) (byteAt bs 2) (payloadOf bs))

/-- REQUEST_READ_HOLDING: ten bytes, function code 0x03 (R62). -/
def decodeRequest (bs : List Byte) : Except DecodeError Instr :=
  match checkWire bs with
  | .error e => .error e
  | .ok () =>
    if bs.length ≠ 10 then .error .badLength
    else if byteAt bs (bs.length - 1) ≠ END then .error .badEnd
    else if byteAt bs 2 ≠ FC_READ_HOLDING then .error .badFunctionCode
    else .ok (.requestReadHolding (byteAt bs 1) (u16be (byteAt bs 3) (byteAt bs 4)) (u16be (byteAt bs 5) (byteAt bs 6)))

/-- RESPONSE_READ_HOLDING: RSP_HDR_BYTES and then whole registers; the last byte and the function code are not checked
(R63, R141). -/
def decodeResponse (p : Params) (bs : List Byte) : Except DecodeError Instr :=
  match checkWire bs with
  | .error e => .error e
  | .ok () =>
    let data := (payloadOf bs).drop p.rspHdrBytes
    let regs := registersOf data
    if (payloadOf bs).length < p.rspHdrBytes ∨ data.length % 2 ≠ 0 ∨ regs.length < 1 ∨ 65535 < regs.length then
      .error .badLength
    else
      .ok (.responseReadHolding (byteAt bs 1) (byteAt bs 2) (if p.byteCountByte then some (byteAt bs 3) else none) regs
        (byteAt bs (bs.length - 1)))

/-- The first-byte class of a read, tested in R69's order. -/
def decodeRead (bs : List Byte) : Instr :=
  match bs with
  | [] => .readEmpty
  | b :: rest =>
    if b = FILLER then .readFillerLed rest
    else if b ≠ START then .readOtherLed b rest
    else .readStartLed rest

/-- Decode an encoded form: total, and rejecting by name. -/
def decode (p : Params) (e : Encoding) : Except DecodeError Instr :=
  match e with
  | .command c => .ok (decodeCommand c)
  | .wireFrame bs => decodeFrame bs
  | .wireRequest bs => decodeRequest bs
  | .wireResponse bs => decodeResponse p bs
  | .read bs => .ok (decodeRead bs)

/-- What a burst on the line is: a request, else a response with function code 0x03, else a frame, else a response with
another function code, else noise (`none`). Every one of them has the same effect, so the order shows nowhere (log 16). -/
def decodeLine (p : Params) (bs : List Byte) : Option Instr :=
  match decodeRequest bs with
  | .ok i => some i
  | .error _ =>
    match decodeResponse p bs, decodeFrame bs with
    | .ok i, .error _ => some i
    | .ok i, .ok j => if byteAt bs 2 = FC_READ_HOLDING then some i else some j
    | .error _, .ok j => some j
    | .error _, .error _ => none

/-- The command of one op code with every operand port zero (log 16). -/
def commandOfOp (op : Nat) : Command := { op := BitVec.ofNat 8 op }

/-- The `n` bytes of a word, byte 0 its least significant. -/
def bytesOfWord : Nat → Nat → List Byte
  | 0, _ => []
  | n + 1, w => BitVec.ofNat 8 (w % 256) :: bytesOfWord n (w / 256)

/-- The instruction the decoder reads from an instruction of `nbits` table bits: one byte is an op code on the command
interface, with the operand ports zero; more bytes are a burst on the line, under the default RSP_HDR_BYTES (log 16). -/
def decodeTableWord (nbits w : Nat) : Option Instr :=
  if nbits ≤ 8 then some (decodeCommand (commandOfOp w))
  else decodeLine Params.default (bytesOfWord ((nbits + 7) / 8) w)

/-- The bytes of a response frame: the optional byte count and the registers between header and checksum (R63). -/
def encodeResponse (address functionCode : Byte) (byteCount : Option Byte) (regs : List Word) (last : Byte) : List Byte :=
  wrap (frameBody address functionCode (byteCount.toList ++ registerBytes regs)) last

/-- The encoder: every instruction in the format of its row; ports an operation does not read are zero (R62, R63, R66, R69). -/
def encode (i : Instr) : Encoding :=
  match i with
  | .crcCompute data => .command { op := 0x01, data := data }
  | .crcValidate data expected => .command { op := 0x02, data := data, expected := expected }
  | .frmEncode a f pl => .command { op := 0x10, address := a, functionCode := f, data := pl }
  | .frmFeed data => .command { op := 0x11, data := data }
  | .frmTryDecode => .command { op := 0x12 }
  | .frmPayload => .command { op := 0x13 }
  | .frmAdvance => .command { op := 0x14 }
  | .frmReset => .command { op := 0x15 }
  | .chTransact a f pl n => .command { op := 0x20, address := a, functionCode := f, data := pl, expLen := n }
  | .regRead a s n => .command { op := 0x21, address := a, start := s, points := n }
  | .anyOtherOp op => .command { op := op }
  | .frame a f pl => .wireFrame (encodeFrame a f pl)
  | .requestReadHolding a s n => .wireRequest (encodeFrame a FC_READ_HOLDING (requestPayload s n))
  | .responseReadHolding a f bc regs last => .wireResponse (encodeResponse a f bc regs last)
  | .readEmpty => .read []
  | .readFillerLed rest => .read (FILLER :: rest)
  | .readOtherLed b rest => .read (b :: rest)
  | .readStartLed rest => .read (START :: rest)

end Sys2Proof
end

