-- ==== Sys2Proof/Machine/State.lean ====
section
/-! DEFINITION. The state of the block (R20), the acts of the host and the line that are still to come (R8), the outputs it
has made, and the reset state (R37). -/

namespace Sys2Proof.Machine

/-- The sequencer states of the Channel (R22, R131). -/
inductive ChState where
  | idle | drain | settle | tx | rx | check
deriving DecidableEq, Repr

/-- The outcome codes held in `status` (R68). -/
inductive Status where
  | ok | noResponse | framingError | checksumMismatch | resyncExhausted | lengthMismatch | refused
deriving DecidableEq, Repr

/-- The 8-bit code of an outcome (R68). -/
def Status.code : Status → Byte
  | .ok => 0x00
  | .noResponse => 0x01
  | .framingError => 0x02
  | .checksumMismatch => 0x03
  | .resyncExhausted => 0x04
  | .lengthMismatch => 0x05
  | .refused => 0xFF

/-- The events of the diagnostic port (R72). -/
inductive Diag where
  /-- The drained bytes. -/
  | discarded (bs : List Byte)
  | noResponse
  /-- The bytes of the offending read. -/
  | framingError (bs : List Byte)
  /-- Computed and received checksum; `none` where the candidate is too short for either (R138; log 22). -/
  | checksumMismatch (values : Option (Word × Word))
deriving DecidableEq, Repr

/-- The operands of the operation in progress (R32); `points` is there when it is REG.READ. Log 15. -/
structure Request where
  address : Byte
  functionCode : Byte
  payload : List Byte
  points : Option Word
deriving DecidableEq, Repr

/-- One draw of the line agent for one LineRead: the bytes it brings from the last removal until the read returns, and how
many bytes the read takes at most (R133). Log 3. -/
structure LineDraw where
  arrive : List Byte
  take : Nat
deriving DecidableEq, Repr

/-- What the host or the line does (R8, R67, R180). -/
inductive Act where
  /-- The host issues an operation. -/
  | op (c : Command)
  /-- The line appends bytes to `rxq` (`line: <bytes>` of R67). -/
  | line (bs : List Byte)
  /-- The line fixes what a LineRead returns (`read -> <bytes>` of R67). -/
  | read (bs : List Byte)
  /-- The reset input is asserted (R180). -/
  | reset
deriving DecidableEq, Repr

/-- An act and the sequencer state it falls into: `idle` waits for the operation in progress, as the host's duty of R49
asks; any other state makes it fall into the middle of a transaction that reaches that state. Log 12. -/
structure Event where
  phase : ChState
  act : Act
  /-- Where the act falls into TX: how many bytes of the request have been written by then (R134, R180; log 14). -/
  written : Nat := 0
deriving DecidableEq, Repr

/-- The state. The fields up to `resVals` are R20's table; the others are the parameters, the operands in progress, the
inputs still to come and the outputs made (R10, R32, R176). -/
structure State where
  /-- Working remainder of the Checksum unit (R21; log 5). -/
  crcRem : Word
  /-- The decoder's accumulated buffer (R26). -/
  buf : List Byte
  /-- Length of the span found by the last FRM.TRY_DECODE; 0 is none (R27). -/
  hdrLen : Nat
  /-- Device address of that span (R27). -/
  hdrAddr : Byte
  /-- Checksum carried by that span (R27). -/
  hdrCrc : Word
  /-- A framing boundary was found (R28). -/
  ready : Bool
  /-- And its checksum passed (R28). -/
  valid : Bool
  /-- Bytes received from the line and not yet read or drained (R30; log 4). -/
  rxq : List Byte
  /-- The sequencer state (R22). -/
  chState : ChState
  /-- Read attempts made in the current transaction (R23). -/
  attempt : Nat
  /-- Expected response length (R24). -/
  expLen : BitVec 18
  /-- The bytes the current read attempt returned (R25). -/
  rx : List Byte
  /-- Outcome of the last operation (R33). -/
  status : Status
  /-- Result of CRC.COMPUTE and copy of `hdr_crc` (R34). -/
  resCrc : Word
  /-- Result of CRC.VALIDATE (R34). -/
  resFlag : Bool
  /-- Byte-sequence result (R34). -/
  resBytes : List Byte
  /-- Decoded registers (R34). -/
  resVals : List Word
  /-- MODEL: the parameters of R7; no step writes them (R29; log 6). -/
  params : Params
  /-- MODEL: the operands of the operation in progress (R32; log 15). -/
  req : Request
  /-- MODEL: how many bytes of the request in progress have been written to the line (R134, R180; log 14). -/
  written : Nat
  /-- MODEL: acts not yet taken, in order (R8; log 2). -/
  inbox : List Event
  /-- MODEL: the line's draws for the reads to come (R133; log 3). -/
  line : List LineDraw
  /-- MODEL: how many free values have been used (log 3). -/
  draws : Nat
  /-- MODEL: the bytes handed to the line so far (R134; log 14). -/
  sent : List Byte
  /-- MODEL: the events of the diagnostic port so far (R176; log 14). -/
  diag : List Diag
deriving DecidableEq, Repr

/-- Why the machine stops with a fault: never. "No input from the line and no operand can stop the block" (R160), so the
type has no constructor and nothing raises one. -/
inductive Fault where
deriving DecidableEq, Repr

/-- Why an instruction has no meaning. -/
inductive Refusal where
  /-- Raised by an arm of exec whose instruction is not modelled; no arm is one. Safe. -/
  | notModelled (mnemonic : String)
deriving DecidableEq, Repr

/-- Right after reset (R37); `crcRem` and `rxq`, which R37 leaves unspecified, and the model's own fields hold the values
the log names (logs 2 to 6, 14, 15). -/
def State.reset : State where
  crcRem := 0
  buf := []
  hdrLen := 0
  hdrAddr := 0
  hdrCrc := 0
  ready := false
  valid := false
  rxq := []
  chState := .idle
  attempt := 0
  expLen := 0
  rx := []
  status := .ok
  resCrc := 0
  resFlag := false
  resBytes := []
  resVals := []
  params := Params.default
  req := { address := 0, functionCode := 0, payload := [], points := none }
  written := 0
  inbox := []
  line := []
  draws := 0
  sent := []
  diag := []

end Sys2Proof.Machine
end

