-- ==== Sys2Proof/Machine/Flags.lean ====
section
/-! DEFINITION. What a search of the decoder buffer finds: the flags `ready` and `valid` and the header latches (R112 to
R115), and the first-byte class of a read (R69). -/

namespace Sys2Proof.Machine

/-- The outcome of FRM.TRY_DECODE on a buffer. -/
structure Scan where
  buf : List Byte
  hdrLen : Nat
  hdrAddr : Byte
  hdrCrc : Word
  ready : Bool
  valid : Bool
deriving DecidableEq, Repr

/-- Not ready, with this buffer (R112). -/
def Scan.notReady (buf : List Byte) : Scan :=
  { buf := buf, hdrLen := 0, hdrAddr := 0, hdrCrc := 0, ready := false, valid := false }

/-- The checksummed region of a span that ends at index `e`: `buf[1 : e-2]` (R113). -/
def spanRegion (buf : List Byte) (e : Nat) : List Byte := slice buf 1 (e - 2)

/-- Field extraction and validation of the span that ends at index `e >= 2` (R113, R114). -/
def scanSpan (buf : List Byte) (e : Nat) : Scan :=
  let c := u16le (byteAt buf (e - 2)) (byteAt buf (e - 1))
  { buf := buf
    hdrLen := e + 1
    hdrAddr := byteAt buf 1
    hdrCrc := c
    ready := true
    valid := decide (MIN_FRAME ≤ e + 1) && crc16 (spanRegion buf e) == c }

/-- From a buffer that begins with START: search the last END (R112 steps 3 and 4). -/
def scanFromStart (buf : List Byte) : Scan :=
  match lastIdx END buf with
  | none => Scan.notReady buf
  | some e => if e + 1 < MIN_SPAN_READY then Scan.notReady buf else scanSpan buf e

/-- The search of FRM.TRY_DECODE (R112 steps 1 to 4, R113, R114). -/
def scan (buf : List Byte) : Scan :=
  match firstIdx START buf with
  | none => Scan.notReady buf
  | some s => scanFromStart (buf.drop s)

/-- The remainder the search leaves in the Checksum unit: it is used only for a span of MIN_FRAME bytes or more (R114). -/
def scanRemainder (old : Word) (r : Scan) : Word :=
  if MIN_FRAME ≤ r.hdrLen then crc16 (spanRegion r.buf (r.hdrLen - 1)) else old

/-- The four first-byte classes (R69). -/
inductive ReadClass where
  | empty | fillerLed | otherLed | startLed
deriving DecidableEq, Repr

/-- The class of a read, by length and first byte, in R69's order. -/
def readClass (bs : List Byte) : ReadClass :=
  match decodeRead bs with
  | .readEmpty => .empty
  | .readFillerLed _ => .fillerLed
  | .readOtherLed _ _ => .otherLed
  | _ => .startLed

end Sys2Proof.Machine
end

