-- ==== Sys2Proof/Machine/Ops.lean ====
section
/-! DEFINITION. The named operations over the state that the meanings share: refusal, the failure of a transaction (R166),
the line's FIFO, the sequencer of the Channel step by step (R131), and the reset input (R180). -/

namespace Sys2Proof.Machine

/-- Refused: `status` and nothing else (R49, R70 (a), R161). -/
def State.refuse (s : State) : State := { s with status := .refused }

/-- An operation is refused while another is in progress, before anything else is tested (R49, R164 (1)). -/
def State.whenIdle (s : State) (f : State → State) : State :=
  if s.chState = .idle then f s else s.refuse

/-- Latches and flags to zero (R27, R28). -/
def State.clearLatches (s : State) : State :=
  { s with hdrLen := 0, hdrAddr := 0, hdrCrc := 0, ready := false, valid := false }

/-- Emit a diagnostic event (R176). -/
def State.emit (s : State) (d : Diag) : State := { s with diag := s.diag ++ [d] }

/-- `raise` of R10, the block's only "trap entry" (R166): status <- code, `res_bytes` and `res_vals` emptied "in every failure"
(R161, D4), back to IDLE. There is no return from it (R168). -/
def State.fail (s : State) (st : Status) : State :=
  { s with
    status := st
    resBytes := []
    resVals := []
    chState := .idle }

/-- The line appends bytes to `rxq`; what a full queue cannot hold is lost (R30, R52; log 11). -/
def State.lineAppend (s : State) (bs : List Byte) : State :=
  { s with rxq := clip s.params.rxqCap (s.rxq ++ bs) }

/-- Step 1, drain, and the DISCARDED event when there was a byte (R132). -/
def State.drainStep (s : State) : State :=
  { s with
    rxq := []
    diag := if s.rxq = [] then s.diag else s.diag ++ [.discarded s.rxq]
    chState := .settle }

/-- Step 2, the settle delay: nothing changes but the sequencer (R135). -/
def State.settleStep (s : State) : State := { s with chState := .tx }

/-- The request of the operation in progress (R134). -/
def Request.bytes (r : Request) : List Byte := encodeFrame r.address r.functionCode r.payload

/-- The request has been written up to its first `k` bytes when an act falls into TX; outside TX nothing is being written
(R134, R180; log 14). -/
def State.writeUpTo (s : State) (k : Nat) : State :=
  if s.chState = .tx then
    { s with
      sent := s.sent ++ (s.req.bytes.take k).drop s.written
      written := max s.written (min k s.req.bytes.length) }
  else s

/-- Step 3: encode, write and flush the request, once: what of it has not been written yet goes to the line (R134). -/
def State.transmitStep (s : State) : State :=
  { s with
    sent := s.sent ++ s.req.bytes.drop s.written
    written := s.req.bytes.length
    crcRem := crc16 (frameBody s.req.address s.req.functionCode s.req.payload)
    chState := .rx }

/-- The line's draw for the next read: the scripted one, or a free value (R133; log 3). -/
def State.nextDraw (s : State) : LineDraw :=
  match s.line with
  | d :: _ => d
  | [] => { arrive := Config.freeArrivals s.draws, take := Config.freeCount s.draws }

/-- The draw is used up. -/
def State.popDraw (s : State) : State :=
  match s.line with
  | _ :: rest => { s with line := rest }
  | [] => { s with draws := s.draws + 1 }

/-- `LineRead(n)`: the first `k` bytes of `rxq ++ future`, `0 <= k <= n`, removed from the front (R133). -/
def lineReadResult (rxq : List Byte) (d : LineDraw) (n : Nat) : List Byte :=
  (rxq ++ d.arrive).take (min d.take n)

/-- What stays in `rxq` after that read (R47, R133; logs 11, 20). -/
def lineReadRest (cap : Option Nat) (rxq : List Byte) (d : LineDraw) (n : Nat) : List Byte :=
  clip cap ((rxq ++ d.arrive).drop (min d.take n))

/-- One attempt's read: `attempt` counts it, `rx` holds it (R23, R25, R130, R136). -/
def State.lineRead (s : State) (d : LineDraw) : State :=
  { s with
    attempt := s.attempt + 1
    rx := lineReadResult s.rxq d s.expLen.toNat
    rxq := lineReadRest s.params.rxqCap s.rxq d s.expLen.toNat }

/-- The consequence of the class of the read just made (R69, R131, R137, R139). -/
def State.classify (s : State) : State :=
  match readClass s.rx with
  | .empty => (s.emit .noResponse).fail .noResponse
  | .fillerLed => if s.attempt < MAX_ATTEMPTS then s else s.fail .resyncExhausted
  | .otherLed => (s.emit (.framingError s.rx)).fail .framingError
  | .startLed => { s with chState := .check }

/-- Step 4, one attempt: read and classify; no read beyond the budget (R136, R139; log 17). -/
def State.readStep (s : State) : State :=
  if s.attempt < MAX_ATTEMPTS then (s.popDraw.lineRead s.nextDraw).classify else s.fail .resyncExhausted

/-- The register decode of REG.READ on a checksum-correct response of `n` registers (R150, R152). -/
def State.decodeRegisters (s : State) (n : Word) : State :=
  if (payloadOf s.rx).length ≠ s.params.rspHdrBytes + 2 * n.toNat then s.fail .lengthMismatch
  else
    { s with
      resVals := registersOf ((payloadOf s.rx).drop s.params.rspHdrBytes)
      resBytes := s.rx
      status := .ok
      chState := .idle }

/-- A good response: the raw response is the result of CH.TRANSACT (R130); REG.READ goes on to decode it (R150). -/
def State.acceptResponse (s : State) : State :=
  match s.req.points with
  | none => { s with resBytes := s.rx, status := .ok, chState := .idle }
  | some n => s.decodeRegisters n

/-- Step 5, the checksum check of the candidate (R138). -/
def State.checkStep (s : State) : State :=
  if s.rx.length < MIN_FRAME then (s.emit (.checksumMismatch none)).fail .checksumMismatch
  else
    let c := crc16 (checksumRegion s.rx)
    let t : State := { s with crcRem := c }
    if c = checksumField s.rx then t.acceptResponse
    else (t.emit (.checksumMismatch (some (c, checksumField s.rx)))).fail .checksumMismatch

/-- One transition of the sequencer (R131); IDLE stays (R36). -/
def State.seqStep (s : State) : State :=
  match s.chState with
  | .idle => s
  | .drain => s.drainStep
  | .settle => s.settleStep
  | .tx => s.transmitStep
  | .rx => s.readStep
  | .check => s.checkStep

/-- An act that does not wait falls into the present sequencer state (R49, R180; log 12). -/
def State.interrupted (s : State) : Bool :=
  match s.inbox with
  | [] => false
  | e :: _ => decide (e.phase = s.chState)

/-- The sequencer runs until IDLE, or until an act falls into the transaction (R22, R131; log 12). -/
def State.runSequencer : Nat → State → State
  | 0, s => s
  | n + 1, s => if s.chState = .idle ∨ s.interrupted then s else State.runSequencer n s.seqStep

/-- DRAIN, SETTLE, TX, RX twice, CHECK: no transaction takes more transitions (R131, R139). -/
def maxTransitions : Nat := 6

/-- Start a transaction: operands latched, nothing of the request written, `attempt <- 0`, `rx <- []`, IDLE to DRAIN (R130,
R131). -/
def State.startTransaction (s : State) (r : Request) (expLen : BitVec 18) : State :=
  { s with req := r, written := 0, expLen := expLen, attempt := 0, rx := [], chState := .drain }

/-- A transaction, from its acceptance on (R130). -/
def State.transact (s : State) (r : Request) (expLen : BitVec 18) : State :=
  State.runSequencer maxTransitions (s.startTransaction r expLen)

/-- The line fixes what a LineRead returns: the next one if none is being waited for, else the one RX waits for, which then
returns (R67, R69, R131, R133; log 10). -/
def State.lineReads (s : State) (bs : List Byte) : State :=
  let t : State := { s with line := s.line ++ [{ arrive := bs, take := bs.length }] }
  if t.chState = .rx then t.readStep else t

/-- The reset input: every element at its reset value, a transaction in progress aborted; what the block does not hold, the
inputs to come and the outputs made (a partly sent request among them), stays; `rxq` is a free value (R37, R180, R181; log 13). -/
def State.resetInput (s : State) : State :=
  { State.reset with
    params := s.params
    inbox := s.inbox
    line := s.line
    draws := s.draws + 1
    sent := s.sent
    diag := s.diag
    rxq := clip s.params.rxqCap (Config.freeRxq s.draws) }

end Sys2Proof.Machine
end

