-- ==== Sys2Proof/Machine/ChannelOps.lean ====
section
/-! DEFINITION. CH.TRANSACT (R130), and every op code that names no operation (R70 (a)). -/

namespace Sys2Proof.Machine

/-- CH.TRANSACT: refused with an empty `res_bytes` when `exp_len = 0` (R70 (c), R130, R161; log 8), else the
transaction (R130 to R139). -/
def execChTransact (address functionCode : Byte) (payload : List Byte) (expLen : BitVec 18) (s : State) :
    Host.Outcome State Fault Refusal :=
  .next (s.whenIdle fun s =>
    if expLen = 0 then { s with resBytes := [], status := .refused }
    else
      s.transact { address := address, functionCode := functionCode, payload := payload, points := none } expLen)

/-- Any other op code: refused, busy or not (R70 (a), R164 (1)). -/
def execAnyOtherOp (_op : Byte) (s : State) : Host.Outcome State Fault Refusal :=
  .next s.refuse

end Sys2Proof.Machine
end

