-- ==== Sys2Proof/Machine/CrcOps.lean ====
section
/-! DEFINITION. The operations of the Checksum unit: CRC.COMPUTE (R93) and CRC.VALIDATE (R94). -/

namespace Sys2Proof.Machine

/-- CRC.COMPUTE (R93). -/
def execCrcCompute (data : List Byte) (s : State) : Host.Outcome State Fault Refusal :=
  .next (s.whenIdle fun s =>
    { s with crcRem := crc16 data, resCrc := crc16 data, resBytes := leBytes (crc16 data), status := .ok })

/-- CRC.VALIDATE (R94). -/
def execCrcValidate (data : List Byte) (expected : Word) (s : State) : Host.Outcome State Fault Refusal :=
  .next (s.whenIdle fun s => { s with crcRem := crc16 data, resFlag := crc16 data == expected, status := .ok })

end Sys2Proof.Machine
end

