-- ==== Sys2Proof/Machine/FrameOps.lean ====
section
/-! DEFINITION. The operations of the Frame Codec: FRM.ENCODE (R101) and the decode side (R111 to R118). -/

namespace Sys2Proof.Machine

/-- FRM.ENCODE (R101). -/
def execFrmEncode (address functionCode : Byte) (payload : List Byte) (s : State) : Host.Outcome State Fault Refusal :=
  .next (s.whenIdle fun s =>
    { s with
      crcRem := crc16 (frameBody address functionCode payload)
      resBytes := encodeFrame address functionCode payload
      status := .ok })

/-- FRM.FEED: append whole or refuse whole (R111, D11). -/
def execFrmFeed (data : List Byte) (s : State) : Host.Outcome State Fault Refusal :=
  .next (s.whenIdle fun s =>
    if fits s.params.bufCap (s.buf.length + data.length) then { s with buf := s.buf ++ data, status := .ok }
    else s.refuse)

/-- FRM.TRY_DECODE: the flags and latches recomputed from scratch, `res_crc` a copy of `hdr_crc` (R112 to R115, R34;
log 7). -/
def execFrmTryDecode (s : State) : Host.Outcome State Fault Refusal :=
  .next (s.whenIdle fun s =>
    let r := scan s.buf
    { s with
      buf := r.buf
      hdrLen := r.hdrLen
      hdrAddr := r.hdrAddr
      hdrCrc := r.hdrCrc
      ready := r.ready
      valid := r.valid
      resCrc := r.hdrCrc
      crcRem := scanRemainder s.crcRem r
      status := .ok })

/-- FRM.PAYLOAD: `buf[3 : hdr_len - 3]` of a valid frame, else refused with an empty result (R116). -/
def execFrmPayload (s : State) : Host.Outcome State Fault Refusal :=
  .next (s.whenIdle fun s =>
    if s.valid then { s with resBytes := slice s.buf 3 (s.hdrLen - 3), status := .ok }
    else { s with resBytes := [], status := .refused })

/-- FRM.ADVANCE: drop the latched span, clear latches and flags (R117). -/
def execFrmAdvance (s : State) : Host.Outcome State Fault Refusal :=
  .next (s.whenIdle fun s => { s.clearLatches with buf := s.buf.drop s.hdrLen, status := .ok })

/-- FRM.RESET: the decoder at its reset state (R118). -/
def execFrmReset (s : State) : Host.Outcome State Fault Refusal :=
  .next (s.whenIdle fun s => { s.clearLatches with buf := [], status := .ok })

end Sys2Proof.Machine
end

