-- ==== Sys2Proof/Machine/LineOps.lean ====
section
/-! DEFINITION. What the line does, row by row: it brings the bytes of a wire format to `rxq` (R8 (3), R30, R60, R62, R63;
log 9), or fixes the outcome of a read by its first-byte class (R67, R69, R131; log 10). -/

namespace Sys2Proof.Machine

/-- FRAME: a frame arrives (R60, R52). -/
def execFrame (address functionCode : Byte) (payload : List Byte) (s : State) : Host.Outcome State Fault Refusal :=
  .next (s.lineAppend (encodeFrame address functionCode payload))

/-- REQUEST_READ_HOLDING: a request frame, other traffic of the shared line, arrives (R62, R52). -/
def execRequestReadHolding (address : Byte) (start points : Word) (s : State) : Host.Outcome State Fault Refusal :=
  .next (s.lineAppend (encodeFrame address FC_READ_HOLDING (requestPayload start points)))

/-- RESPONSE_READ_HOLDING: a response frame arrives (R63, R52). -/
def execResponseReadHolding (address functionCode : Byte) (byteCount : Option Byte) (regs : List Word) (last : Byte)
    (s : State) : Host.Outcome State Fault Refusal :=
  .next (s.lineAppend (encodeResponse address functionCode byteCount regs last))

/-- READ_EMPTY: a read returns no byte (R69, R137 (a)). -/
def execReadEmpty (s : State) : Host.Outcome State Fault Refusal :=
  .next (s.lineReads [])

/-- READ_FILLER_LED: a read returns FILLER and `rest` (R69, R137 (b)). -/
def execReadFillerLed (rest : List Byte) (s : State) : Host.Outcome State Fault Refusal :=
  .next (s.lineReads (FILLER :: rest))

/-- READ_OTHER_LED: a read returns another first byte and `rest` (R69, R137 (c)). -/
def execReadOtherLed (first : Byte) (rest : List Byte) (s : State) : Host.Outcome State Fault Refusal :=
  .next (s.lineReads (first :: rest))

/-- READ_START_LED: a read returns START and `rest` (R69, R137 (d)). -/
def execReadStartLed (rest : List Byte) (s : State) : Host.Outcome State Fault Refusal :=
  .next (s.lineReads (START :: rest))

end Sys2Proof.Machine
end

