-- ==== Sys2Proof/Machine/RegisterOps.lean ====
section
/-! DEFINITION. REG.READ, the Register Transaction layer (R150 to R152). -/

namespace Sys2Proof.Machine

/-- REG.READ: refused with an empty `res_vals` when the count is 0 or above MAX_POINTS (R70 (c), R150; log 8), else a
transaction with function code 3 and the expected length `2n + 7`, whose good response is decoded (R73, R150 to R152). -/
def execRegRead (address : Byte) (start points : Word) (s : State) : Host.Outcome State Fault Refusal :=
  .next (s.whenIdle fun s =>
    if points = 0 ∨ s.params.maxPoints < points then { s with resVals := [], status := .refused }
    else
      s.transact
        { address := address
          functionCode := FC_READ_HOLDING
          payload := requestPayload start points
          points := some points }
        (expectedLength points))

end Sys2Proof.Machine
end

