-- ==== Sys2Proof/Machine/Dispatch.lean ====
section
/-! DEFINITION. One arm per row of the operation table. -/

namespace Sys2Proof.Machine

def exec (i : Instr) (s : State) : Host.Outcome State Fault Refusal :=
  match i with
  | .crcCompute data => Sys2Proof.Machine.execCrcCompute data s
  | .crcValidate data expected => Sys2Proof.Machine.execCrcValidate data expected s
  | .frmEncode address functionCode payload => Sys2Proof.Machine.execFrmEncode address functionCode payload s
  | .frmFeed data => Sys2Proof.Machine.execFrmFeed data s
  | .frmTryDecode => Sys2Proof.Machine.execFrmTryDecode s
  | .frmPayload => Sys2Proof.Machine.execFrmPayload s
  | .frmAdvance => Sys2Proof.Machine.execFrmAdvance s
  | .frmReset => Sys2Proof.Machine.execFrmReset s
  | .chTransact address functionCode payload expLen => Sys2Proof.Machine.execChTransact address functionCode payload expLen s
  | .regRead address start points => Sys2Proof.Machine.execRegRead address start points s
  | .anyOtherOp op => Sys2Proof.Machine.execAnyOtherOp op s
  | .frame address functionCode payload => Sys2Proof.Machine.execFrame address functionCode payload s
  | .requestReadHolding address start points => Sys2Proof.Machine.execRequestReadHolding address start points s
  | .responseReadHolding address functionCode byteCount regs last => Sys2Proof.Machine.execResponseReadHolding address functionCode byteCount regs last s
  | .readEmpty => Sys2Proof.Machine.execReadEmpty s
  | .readFillerLed rest => Sys2Proof.Machine.execReadFillerLed rest s
  | .readOtherLed first rest => Sys2Proof.Machine.execReadOtherLed first rest s
  | .readStartLed rest => Sys2Proof.Machine.execReadStartLed rest s

end Sys2Proof.Machine
end

