-- ==== Sys2Proof/Machine/Fetch.lean ====
section
/-! DEFINITION. What the machine does next: which act it takes from the inbox and how it performs it (R8, R48, R49, R53;
logs 2, 12, 16, 19). -/

namespace Sys2Proof.Machine

/-- Does the machine take the act now? It does when no operation is in progress, or when the act falls into the present
sequencer state (R48, R49; log 12). -/
def State.takes (s : State) (e : Event) : Bool := decide (s.chState = .idle) || decide (e.phase = s.chState)

/-- Perform an act: an operation, a burst or a read is decoded and run; bytes that are no frame only arrive. -/
def perform (a : Act) (s : State) : Host.Outcome State Fault Refusal :=
  match a with
  | .op c => exec (decodeCommand c) s
  | .line bs =>
    match decodeLine s.params bs with
    | some i => exec i s
    | none => .next (s.lineAppend bs)
  | .read bs => exec (decodeRead bs) s
  | .reset => .next s.resetInput

/-- One step: the next act if it is taken now, after the bytes of the request that precede it, else the sequencer goes on;
with neither, nothing changes (R36, R177, R180). -/
def nextStep (s : State) : Host.Outcome State Fault Refusal :=
  match s.inbox with
  | [] => .next (State.runSequencer maxTransitions s)
  | e :: rest =>
    if s.takes e then perform e.act (State.writeUpTo { s with inbox := rest } e.written)
    else .next (State.runSequencer maxTransitions s)

/-- The act by which an instruction of `nbits` table bits reaches the machine: one byte is an op code on the command
interface with zero operand ports, more bytes are a burst on the line (log 16). -/
def actOfWord (nbits w : Nat) : Act :=
  if nbits ≤ 8 then .op (commandOfOp w) else .line (bytesOfWord ((nbits + 7) / 8) w)

end Sys2Proof.Machine
end

