-- ==== Sys2Proof/Machine/Step.lean ====
section
/-! DEFINITION. The step of the machine, and where a program's next instruction stands: at the head of the inbox. -/

namespace Sys2Proof.Machine

/-- One step of the host, the block and the line together (R8). -/
def step (s : State) : Host.Outcome State Fault Refusal := nextStep s

/-- `s` with the instruction at the head of the inbox, to be taken at once (logs 2, 16). -/
def State.withFetchWord (s : State) (nbits w : Nat) : State :=
  { s with inbox := { phase := s.chState, act := actOfWord nbits w } :: s.inbox }

end Sys2Proof.Machine
end

