-- ==== Sys2Proof/Safety.lean ====
section
/-! DEFINITION. What the statements mean by a good state, by a transaction that nothing falls into, and by the outcome of a
step that goes on. -/

namespace Sys2Proof.Machine

/-- What holds of every state of a run: the bounds of R20, the meaning of latches and flags (R27, R28), the attempt budget
(R23), the bound of a read (R25), the emptied result of a failure (R161), and R7's range of MAX_POINTS. -/
structure State.Inv (s : State) : Prop where
  /-- `len(buf) <= BUF_CAP` (R20, R40). -/
  bufFits : fits s.params.bufCap s.buf.length = true
  /-- `len(rxq) <= RXQ_CAP` (R20, R40). -/
  rxqFits : fits s.params.rxqCap s.rxq.length = true
  /-- "Whenever ready = 0, all three are 0" (R27). -/
  latchesClear : s.ready = false → s.hdrLen = 0 ∧ s.hdrAddr = 0 ∧ s.hdrCrc = 0
  /-- "Whenever ready = 1: 3 <= hdr_len <= len(buf), buf[0] = START and buf[hdr_len - 1] = END" (R27). -/
  spanInBuf : s.ready = true →
    3 ≤ s.hdrLen ∧ s.hdrLen ≤ s.buf.length ∧ byteAt s.buf 0 = START ∧ byteAt s.buf (s.hdrLen - 1) = END
  /-- The latches are the bytes of the span (R113). -/
  latchesAgree : s.ready = true →
    s.hdrAddr = byteAt s.buf 1 ∧ s.hdrCrc = u16le (byteAt s.buf (s.hdrLen - 3)) (byteAt s.buf (s.hdrLen - 2))
  /-- "valid = 1 implies ready = 1" (R28). -/
  validReady : s.valid = true → s.ready = true
  /-- A valid span has six bytes or more and its checksum is right (R114). -/
  validFrame : s.valid = true → 6 ≤ s.hdrLen ∧ crc16 (slice s.buf 1 (s.hdrLen - 3)) = s.hdrCrc
  /-- `attempt` is 0, 1 or 2 (R20, R23). -/
  attemptBudget : s.attempt ≤ 2
  /-- `len(rx) <= exp_len` (R20, R25). -/
  rxFits : s.rx.length ≤ s.expLen.toNat
  /-- After a failed transaction `res_bytes` and `res_vals` are `[]` (R161, R166). -/
  failureEmpty : s.status ≠ .ok → s.status ≠ .refused → s.resBytes = [] ∧ s.resVals = []
  /-- No more of a request has been written than it has bytes (R134). -/
  writtenFits : s.written ≤ s.req.bytes.length
  /-- MAX_POINTS is 1 to 65535 (R7). -/
  paramsWf : s.params.wf = true

/-- No act falls into a transaction that starts or goes on here: the next one waits for IDLE, as R49 asks of the host. -/
def State.quiet (s : State) : Bool :=
  match s.inbox with
  | [] => true
  | e :: _ => decide (e.phase = .idle)

/-- The ten operations of R66 and the unassigned op codes: what the host can issue. -/
def isCommand (i : Instr) : Bool :=
  match encode i with
  | .command _ => true
  | _ => false

end Sys2Proof.Machine
end

