-- ==== Sys2Proof/Certificates/Slice0/Obligations.lean ====
section
/-! DEFINITION. The statements for the provers. Each docstring names the rules of spec/ it rests on, and the log entry where
a clause is the model's choice. -/

namespace Sys2Proof.Spec

open Sys2Proof.Machine

/-- The kinds of a read that R140's table tells apart. -/
inductive ReadKind where
  | empty | filler | other | bad | good
deriving DecidableEq, Repr

/-- The kind of a read: R69's classes, and for a START-led read whether it is "good" (R140): at least 6 bytes and the
checksum of `r[1 : L-3]` equal to the bytes at `L-3` and `L-2`, low byte first (R138). -/
def readKind (r : List Byte) : ReadKind :=
  if r = [] then .empty
  else if r.head? = some 0x00 then .filler
  else if r.head? ≠ some 0x0A then .other
  else if 6 ≤ r.length ∧ crc16 (slice r 1 (r.length - 3)) = u16le (byteAt r (r.length - 3)) (byteAt r (r.length - 2))
  then .good
  else .bad

/-- R140's table: `status` and `attempt` by the kinds of the first and second read. -/
def outcome : ReadKind → ReadKind → Status × Nat
  | .empty, _ => (.noResponse, 1)
  | .other, _ => (.framingError, 1)
  | .bad, _ => (.checksumMismatch, 1)
  | .good, _ => (.ok, 1)
  | .filler, .empty => (.noResponse, 2)
  | .filler, .other => (.framingError, 2)
  | .filler, .bad => (.checksumMismatch, 2)
  | .filler, .good => (.ok, 2)
  | .filler, .filler => (.resyncExhausted, 2)

/-- The first read of a transaction that starts in `s` and asks for `n` bytes, with `q` queued when it is made: a part from the
front of what is queued and what the line brings (R133; log 3). Where nothing arrives after the drain, `q` is empty (R132). -/
def read1 (q : List Byte) (s : State) (n : Nat) : List Byte :=
  (q ++ s.nextDraw.arrive).take (min s.nextDraw.take n)

/-- What the first read leaves in the queue (R47, R52; log 11). -/
def rest1 (q : List Byte) (s : State) (n : Nat) : List Byte :=
  clip s.params.rxqCap ((q ++ s.nextDraw.arrive).drop (min s.nextDraw.take n))

/-- The second read: a part from the front of what was left and what the line brings then (R133, R136). -/
def read2 (q : List Byte) (s : State) (n : Nat) : List Byte :=
  (rest1 q s n ++ s.popDraw.nextDraw.arrive).take (min s.popDraw.nextDraw.take n)

/-- What the second read leaves in the queue. -/
def rest2 (q : List Byte) (s : State) (n : Nat) : List Byte :=
  clip s.params.rxqCap ((rest1 q s n ++ s.popDraw.nextDraw.arrive).drop (min s.popDraw.nextDraw.take n))

/-- Is a second read made? Only after a filler-led first one (R136). -/
def readsTwice (q : List Byte) (s : State) (n : Nat) : Bool := readKind (read1 q s n) = .filler

/-- The last read of the transaction. -/
def lastRead (q : List Byte) (s : State) (n : Nat) : List Byte := if readsTwice q s n then read2 q s n else read1 q s n

/-- The diagnostic event that goes with the last read (R72, R161; log 22: no values for a candidate shorter than six bytes). -/
def readEvents (r : List Byte) : List Diag :=
  match readKind r with
  | .empty => [.noResponse]
  | .filler => []
  | .other => [.framingError r]
  | .bad =>
    [.checksumMismatch
      (if r.length < 6 then none
        else some (crc16 (slice r 1 (r.length - 3)), u16le (byteAt r (r.length - 3)) (byteAt r (r.length - 2))))]
  | .good => []

/-- The state after CH.TRANSACT, field by field (R130 to R139, R161), with `q` queued when the first read is made: everything it
writes, over the state whose draws are used. What `crcRem`, `req`, `written`, `sent` and `diag` hold is the model's choice
(logs 5, 14, 15, 22). -/
def afterTransact (q : List Byte) (s : State) (a f : Byte) (p : List Byte) (n : BitVec 18) : State :=
  let r := lastRead q s n.toNat
  let o := outcome (readKind (read1 q s n.toNat)) (readKind (read2 q s n.toNat))
  { (if readsTwice q s n.toNat then s.popDraw.popDraw else s.popDraw) with
    req := { address := a, functionCode := f, payload := p, points := none }
    written := (encodeFrame a f p).length
    expLen := n
    attempt := o.2
    rx := r
    rxq := if readsTwice q s n.toNat then rest2 q s n.toNat else rest1 q s n.toNat
    status := o.1
    resBytes := if o.1 = .ok then r else []
    resVals := if o.1 = .ok then s.resVals else []
    sent := s.sent ++ encodeFrame a f p
    crcRem := if r.head? = some 0x0A ∧ 6 ≤ r.length then crc16 (slice r 1 (r.length - 3)) else crc16 (a :: f :: p)
    diag := s.diag ++ ((if s.rxq = [] then [] else [.discarded s.rxq]) ++ readEvents r)
    chState := .idle }

/-- A transaction that fails: the code, both results empty, the sequencer in IDLE (R161, R166). -/
def failed (s : State) (x : Status) : State := { s with status := x, resBytes := [], resVals := [], chState := .idle }

/-- RX, when the awaited read takes its part from the front of what is queued and what the draw brings, and by its first byte
(R23, R25, R69, R131, R133, R137, R139; log 11 for what stays queued). -/
def afterRead (s : State) (d : LineDraw) : State :=
  let r := (s.rxq ++ d.arrive).take (min d.take s.expLen.toNat)
  let u := { s with
    attempt := s.attempt + 1
    rx := r
    rxq := clip s.params.rxqCap ((s.rxq ++ d.arrive).drop (min d.take s.expLen.toNat)) }
  match readKind r with
  | .empty => failed { u with diag := s.diag ++ [.noResponse] } .noResponse
  | .filler => if s.attempt = 0 then u else failed u .resyncExhausted
  | .other => failed { u with diag := s.diag ++ [.framingError r] } .framingError
  | .bad => { u with chState := .check }
  | .good => { u with chState := .check }

/-- RX, when a read row brings the bytes `bs`: the read takes them as its draw, unless the line's script comes first (log 10). -/
def readReturns (s : State) (bs : List Byte) : State :=
  match s.line with
  | [] => afterRead s { arrive := bs, take := bs.length }
  | d :: ds => afterRead { s with line := ds ++ [{ arrive := bs, take := bs.length }] } d

/-- What REG.READ of `n` registers makes of the state that CH.TRANSACT leaves (R73, R150, R152). -/
def afterRegisterDecode (t : State) (n : Word) : State :=
  let h := if t.params.byteCountByte then 1 else 0
  let p := slice t.rx 3 (t.rx.length - 3)
  let u : State := { t with req := { t.req with points := some n } }
  if t.status ≠ .ok then { u with resVals := [] }
  else if p.length ≠ h + 2 * n.toNat then { u with status := .lengthMismatch, resVals := [], resBytes := [] }
  else { u with resVals := (List.range n.toNat).map fun i => u16be (byteAt p (h + 2 * i)) (byteAt p (h + 2 * i + 1)) }

/-- The instructions, issued one after the other, lead from `s` to `t`. -/
def Runs : List Instr → State → State → Prop
  | [], s, t => s = t
  | i :: is, s, t => ∃ u, exec i s = .next u ∧ Runs is u t

end Sys2Proof.Spec

open Sys2Proof Sys2Proof.Machine Sys2Proof.Spec

/-! ## Encodings -/

/-- Every well-formed instruction is read back from its encoding: commands (R66), wire formats (R60, R62, R63), reads (R69). -/
def Obligations.DecodeEncodeRoundTrip : Prop :=
  ∀ (p : Params) (i : Instr), i.wellFormed p = true → decode p (encode i) = .ok i

/-- What the decoder accepts is well-formed (R63, R69, R70). -/
def Obligations.DecodedIsWellFormed : Prop :=
  ∀ (p : Params) (e : Encoding) (i : Instr), decode p e = .ok i → i.wellFormed p = true

/-- Bytes that the decoder accepts as a wire frame or a read are the bytes of the instruction it answers, so no byte of a
frame is ignored (R60, R62, R63, R69). -/
def Obligations.WireDecodeIsExact : Prop :=
  ∀ (p : Params) (e : Encoding) (i : Instr), decode p e = .ok i → (∀ c, e ≠ .command c) → encode i = e

/-- A few words written out from the tables: op codes (R66, R70), S2's frame (R60), the request of 95 section 3 (R62), S4's
frame as a response (R63). That a table word of eight bits is an op code with every operand port zero is the model's choice
(log 16). -/
def Obligations.WrittenWordsDecode : Prop :=
  decodeTableWord 8 0x01 = some (.crcCompute []) ∧
  decodeTableWord 8 0x14 = some .frmAdvance ∧
  decodeTableWord 8 0x21 = some (.regRead 0 0 0) ∧
  decodeTableWord 8 0x0A = some (.anyOtherOp 0x0A) ∧
  decodeFrame [0x0A, 0xFF, 0x01, 0x81, 0x80, 0x0D] = .ok (.frame 0xFF 0x01 []) ∧
  decodeRequest [0x0A, 0x03, 0x03, 0x00, 0xD9, 0x00, 0x01, 0x54, 0x13, 0x0D] = .ok (.requestReadHolding 3 0xD9 1) ∧
  decodeResponse Params.default [0x0A, 0x01, 0x03, 0x02, 0x00, 0x0D, 0x79, 0x81, 0x0D] =
    .ok (.responseReadHolding 1 3 (some 2) [0x000D] 0x0D)

/-- A frame is six bytes longer than its payload, and a request is ten bytes (R102). -/
def Obligations.EncodedFrameLength : Prop :=
  (∀ (a f : Byte) (p : List Byte), (encodeFrame a f p).length = p.length + 6) ∧
  ∀ (a f : Byte) (p : List Byte), p.length = 4 → (encodeFrame a f p).length = 10

/-- The checksum is serialised low byte first and read back from those two bytes (R42, R92); other fields are high byte
first (R43). -/
def Obligations.ByteOrders : Prop :=
  (∀ c : Word, leBytes c = [c.extractLsb' 0 8, c.extractLsb' 8 8] ∧ beBytes c = [c.extractLsb' 8 8, c.extractLsb' 0 8]) ∧
  (∀ b0 b1 : Byte, (u16le b0 b1).toNat = b1.toNat * 256 + b0.toNat ∧ leBytes (u16le b0 b1) = [b0, b1]) ∧
  ∀ h l : Byte, (u16be h l).toNat = h.toNat * 256 + l.toNat ∧ beBytes (u16be h l) = [h, l]

/-- The outcome codes (R68). -/
def Obligations.OutcomeCodes : Prop :=
  Status.ok.code = 0x00 ∧ Status.noResponse.code = 0x01 ∧ Status.framingError.code = 0x02 ∧
  Status.checksumMismatch.code = 0x03 ∧ Status.resyncExhausted.code = 0x04 ∧ Status.lengthMismatch.code = 0x05 ∧
  Status.refused.code = 0xFF

/-! ## Checksum unit -/

/-- CRC.COMPUTE (R93): op 0x01; its three results and nothing else but the scratch remainder, whose value is left open; the
empty sequence; the example. -/
def Obligations.CrcComputeResult : Prop :=
  (∀ data : List Byte, encode (.crcCompute data) = .command { op := 0x01, data := data }) ∧
  (∀ (data : List Byte) (s : State), s.chState = .idle →
    ∃ scratch : Word, exec (.crcCompute data) s = .next
      { s with
        crcRem := scratch
        resCrc := crc16 data
        resBytes := [(crc16 data).extractLsb' 0 8, (crc16 data).extractLsb' 8 8]
        status := .ok }) ∧
  crc16 [] = 0xFFFF ∧ leBytes (crc16 []) = [0xFF, 0xFF] ∧
  crc16 [0xFF, 0x01] = 0x8081 ∧ leBytes (crc16 [0xFF, 0x01]) = [0x81, 0x80]

/-- CRC.VALIDATE (R94): op 0x02; the flag is the comparison of all 16 bits and the status is OK either way; nothing else but the
scratch remainder, whose value is left open; the empty sequence; the example. -/
def Obligations.CrcValidateResult : Prop :=
  (∀ (data : List Byte) (x : Word), encode (.crcValidate data x) = .command { op := 0x02, data := data, expected := x }) ∧
  (∀ (data : List Byte) (x : Word) (s : State), s.chState = .idle →
    ∃ scratch : Word, exec (.crcValidate data x) s = .next
      { s with crcRem := scratch, resFlag := decide (crc16 data = x), status := .ok }) ∧
  (∀ x : Word, crc16 [] = x ↔ x = 0xFFFF) ∧
  crc16 [0x01, 0x03, 0x02, 0x00, 0x0D] = 0x8179 ∧ crc16 [0x01, 0x03, 0x02, 0x00, 0x0D] ≠ 0x7981

/-- Validating what was computed succeeds, for every sequence (R96). -/
def Obligations.ValidateAcceptsCompute : Prop :=
  ∀ (b : List Byte) (s : State), s.chState = .idle →
    ∃ t u, exec (.crcCompute b) s = .next t ∧ exec (.crcValidate b t.resCrc) t = .next u ∧ u.resFlag = true ∧ u.status = .ok

/-- The loop continues over a concatenation from the remainder of the first part (R95). -/
def Obligations.ChecksumOfConcatenation : Prop :=
  ∀ s t : List Byte, crc16 (s ++ t) = crcFrom (crc16 s) t

/-- The residue of a sequence with its checksum behind it is zero (R97). -/
def Obligations.ChecksumResidueIsZero : Prop :=
  ∀ m : List Byte, crc16 (m ++ leBytes (crc16 m)) = 0x0000

/-- Changing one byte, a single bit of it among others, changes the checksum (what U7 says can be proved of R91; R96). -/
def Obligations.ChecksumDetectsOneByte : Prop :=
  ∀ (pre post : List Byte) (b b' : Byte), b ≠ b' → crc16 (pre ++ b :: post) ≠ crc16 (pre ++ b' :: post)

/-- The scratch remainder after each operation of the Checksum unit and the codec that evaluates `crc16` is that of the last
evaluation (R21 says only that it is scratch): the model's choice (log 5). -/
def Obligations.ScratchHoldsLastRemainder : Prop :=
  ∀ (data p : List Byte) (x : Word) (a f : Byte) (s : State), s.chState = .idle →
    (∃ t, exec (.crcCompute data) s = .next t ∧ t.crcRem = crc16 data) ∧
    (∃ t, exec (.crcValidate data x) s = .next t ∧ t.crcRem = crc16 data) ∧
    (∃ t, exec (.frmEncode a f p) s = .next t ∧ t.crcRem = crc16 (a :: f :: p)) ∧
    ∃ t, exec .frmTryDecode s = .next t ∧
      t.crcRem = if 6 ≤ t.hdrLen then crc16 (slice t.buf 1 (t.hdrLen - 3)) else s.crcRem

/-! ## Frame Codec -/

/-- FRM.ENCODE (R101, R60): START, address, function code, payload, checksum low and high byte, END; nothing else but the
status and the scratch remainder, whose value is left open. -/
def Obligations.FrmEncodeResult : Prop :=
  ∀ (a f : Byte) (p : List Byte) (s : State), s.chState = .idle →
    ∃ scratch : Word, exec (.frmEncode a f p) s = .next
      { s with
        crcRem := scratch
        resBytes :=
          0x0A :: a :: f :: (p ++ [(crc16 (a :: f :: p)).extractLsb' 0 8, (crc16 (a :: f :: p)).extractLsb' 8 8, 0x0D])
        status := .ok }

/-- FRM.FEED (R111, D11): op 0x11; all of the bytes behind the buffer, latches and flags kept, an empty sequence changing
nothing but the status; or, beyond BUF_CAP, nothing of them; the example. -/
def Obligations.FrmFeedResult : Prop :=
  (∀ data : List Byte, encode (.frmFeed data) = .command { op := 0x11, data := data }) ∧
  (∀ (data : List Byte) (s : State), s.chState = .idle →
    ((∀ c, s.params.bufCap = some c → s.buf.length + data.length ≤ c) →
      exec (.frmFeed data) s = .next { s with buf := s.buf ++ data, status := .ok }) ∧
    (∀ c, s.params.bufCap = some c → c < s.buf.length + data.length →
      exec (.frmFeed data) s = .next { s with status := .refused })) ∧
  (∀ s : State, s.chState = .idle → s.params.bufCap = none → s.buf = [0x0A, 0x01] →
    exec (.frmFeed [0x03]) s = .next { s with buf := [0x0A, 0x01, 0x03], status := .ok }) ∧
  ∀ s : State, s.chState = .idle → fits s.params.bufCap s.buf.length = true →
    exec (.frmFeed []) s = .next { s with status := .ok }

/-- FRM.TRY_DECODE (R112 to R115): no START; a START and no END after it; a span from the first START to the last END, not
ready when shorter than 3, else its fields by position, valid when it has 6 bytes and the right checksum. `res_crc` is a copy
of `hdr_crc` in each case (R34; log 7). -/
def Obligations.TryDecodeOutcomes : Prop :=
  ∀ s : State, s.chState = .idle →
    (START ∉ s.buf →
      exec .frmTryDecode s = .next
        { s with hdrLen := 0, hdrAddr := 0, hdrCrc := 0, ready := false, valid := false, resCrc := 0, status := .ok }) ∧
    (∀ noise rest : List Byte, s.buf = noise ++ START :: rest → START ∉ noise → END ∉ rest →
      exec .frmTryDecode s = .next
        { s with
          buf := START :: rest
          hdrLen := 0, hdrAddr := 0, hdrCrc := 0, ready := false, valid := false, resCrc := 0, status := .ok }) ∧
    (∀ noise body tail : List Byte, s.buf = noise ++ START :: (body ++ END :: tail) → START ∉ noise → END ∉ tail →
      body = [] →
      exec .frmTryDecode s = .next
        { s with
          buf := START :: END :: tail
          hdrLen := 0, hdrAddr := 0, hdrCrc := 0, ready := false, valid := false, resCrc := 0, status := .ok }) ∧
    (∀ noise body tail : List Byte, s.buf = noise ++ START :: (body ++ END :: tail) → START ∉ noise → END ∉ tail →
      body ≠ [] →
      ∃ scratch : Word, ∃ c : Word,
        c = u16le (byteAt (START :: body) (body.length - 1)) (byteAt (START :: body) body.length) ∧
        exec .frmTryDecode s = .next
          { s with
            buf := START :: (body ++ END :: tail)
            hdrLen := body.length + 2
            hdrAddr := byteAt body 0
            hdrCrc := c
            ready := true
            valid := decide (6 ≤ body.length + 2 ∧ crc16 (body.take (body.length - 2)) = c)
            resCrc := c
            crcRem := scratch
            status := .ok })

/-- FRM.TRY_DECODE issued twice: the second changes nothing (R115). -/
def Obligations.TryDecodeIdempotent : Prop :=
  ∀ s : State, s.chState = .idle → ∃ t, exec .frmTryDecode s = .next t ∧ exec .frmTryDecode t = .next t

/-- FRM.PAYLOAD (R116): the slice of a valid frame, else refused with an empty result; buffer, latches and flags kept. -/
def Obligations.FrmPayloadResult : Prop :=
  ∀ s : State, s.chState = .idle →
    (s.valid = true →
      exec .frmPayload s = .next { s with resBytes := (s.buf.take (s.hdrLen - 3)).drop 3, status := .ok }) ∧
    (s.valid = false → exec .frmPayload s = .next { s with resBytes := [], status := .refused })

/-- FRM.ADVANCE (R117): the latched span dropped whether valid or not, latches and flags 0. -/
def Obligations.FrmAdvanceResult : Prop :=
  ∀ s : State, s.chState = .idle →
    exec .frmAdvance s = .next
      { s with
        buf := s.buf.drop s.hdrLen
        hdrLen := 0, hdrAddr := 0, hdrCrc := 0, ready := false, valid := false, status := .ok }

/-- FRM.RESET (R118): op 0x15; the decoder at its reset state and nothing else touched; the example. -/
def Obligations.FrmResetResult : Prop :=
  encode .frmReset = .command { op := 0x15 } ∧
  (∀ s : State, s.chState = .idle →
    exec .frmReset s = .next
      { s with buf := [], hdrLen := 0, hdrAddr := 0, hdrCrc := 0, ready := false, valid := false, status := .ok }) ∧
  ∀ s : State, s.chState = .idle → s.buf = [0x0A, 0x0D] → ∃ t, exec .frmReset s = .next t ∧ t.buf = []

/-- A frame the encoder builds, fed alone to an empty decoder, decodes valid with its address and payload (R101 (c)). -/
def Obligations.EncodedFrameDecodes : Prop :=
  ∀ (a f : Byte) (p : List Byte) (s : State), s.chState = .idle → s.buf = [] →
    fits s.params.bufCap (p.length + 6) = true →
    ∃ t u, Runs [.frmEncode a f p, .frmFeed (encodeFrame a f p), .frmTryDecode] s t ∧
      t.ready = true ∧ t.valid = true ∧ t.hdrAddr = a ∧ t.hdrLen = p.length + 6 ∧
      exec .frmPayload t = .next u ∧ u.resBytes = p ∧ u.status = .ok

/-- Noise without START before a frame is skipped and bytes without END behind it are kept for later (R112, R117, R187). -/
def Obligations.FrameBetweenNoiseDecodes : Prop :=
  ∀ (noise tail : List Byte) (a f : Byte) (p : List Byte) (s : State), s.chState = .idle →
    START ∉ noise → END ∉ tail → s.buf = noise ++ (encodeFrame a f p ++ tail) →
    ∃ t u v, exec .frmTryDecode s = .next t ∧ t.valid = true ∧ t.hdrAddr = a ∧ t.buf = encodeFrame a f p ++ tail ∧
      exec .frmPayload t = .next u ∧ u.resBytes = p ∧
      exec .frmAdvance u = .next v ∧ v.buf = tail ∧ v.ready = false ∧ v.valid = false

/-- Back-to-back decoding: a second frame fed after the first was found survives the advance and decodes in its turn (R119). -/
def Obligations.BackToBackDecoding : Prop :=
  ∀ (a f a' f' : Byte) (p p' : List Byte) (s : State), s.chState = .idle → s.buf = encodeFrame a f p →
    fits s.params.bufCap ((p.length + 6) + (p'.length + 6)) = true →
    ∃ t u v, Runs [.frmTryDecode, .frmFeed (encodeFrame a' f' p'), .frmPayload] s t ∧ t.resBytes = p ∧
      Runs [.frmAdvance, .frmTryDecode] t u ∧ u.buf = encodeFrame a' f' p' ∧ u.valid = true ∧ u.hdrAddr = a' ∧
      exec .frmPayload u = .next v ∧ v.resBytes = p'

/-- The decoder and the Checksum unit never touch the Channel, the line or the queue, busy or not (R26, R28, R95). -/
def Obligations.CodecLeavesChannelAlone : Prop :=
  ∀ (data p : List Byte) (x : Word) (a f : Byte) (s : State) (i : Instr),
    i ∈ [Instr.crcCompute data, .crcValidate data x, .frmEncode a f p, .frmFeed data, .frmTryDecode, .frmPayload,
      .frmAdvance, .frmReset] →
    ∃ t, exec i s = .next t ∧ t.rxq = s.rxq ∧ t.chState = s.chState ∧ t.attempt = s.attempt ∧ t.expLen = s.expLen ∧
      t.rx = s.rx ∧ t.resVals = s.resVals ∧ t.params = s.params ∧ t.req = s.req ∧ t.written = s.written ∧
      t.inbox = s.inbox ∧ t.line = s.line ∧ t.draws = s.draws ∧ t.sent = s.sent ∧ t.diag = s.diag

/-! ## Channel -/

/-- CH.TRANSACT ends with the status and attempt count of R140's table, for whatever the line brings; and where the table says
"not read", the line's draw for a second read is not used. That a read uses one draw of a script or of the free values, and what
a bounded queue keeps between the reads, is the model's (logs 3, 11). -/
def Obligations.TransactOutcomeTable : Prop :=
  ∀ (a f : Byte) (p : List Byte) (n : BitVec 18) (s : State), s.chState = .idle → s.quiet = true → n ≠ 0 →
    ∃ t, exec (.chTransact a f p n) s = .next t ∧
      (t.status, t.attempt) = outcome (readKind (read1 [] s n.toNat)) (readKind (read2 [] s n.toNat)) ∧
      (readKind (read1 [] s n.toNat) ≠ .filler →
        t.rx = read1 [] s n.toNat ∧ t.line = s.popDraw.line ∧ t.draws = s.popDraw.draws) ∧
      (readKind (read1 [] s n.toNat) = .filler → t.rx = read2 [] s n.toNat)

/-- CH.TRANSACT, the whole next state (R130 to R142, R161): every field it writes, and no other. The model's choices in it are
the draws (log 3), the scratch remainder (log 5), what a bounded queue keeps (log 11), `sent`, `written` and `diag` (log 14),
`req` (log 15) and the event of a short candidate (log 22). -/
def Obligations.TransactWholeState : Prop :=
  ∀ (a f : Byte) (p : List Byte) (n : BitVec 18) (s : State), s.chState = .idle → s.quiet = true → n ≠ 0 →
    exec (.chTransact a f p n) s = .next (afterTransact [] s a f p n)

/-- Bytes that arrive after the drain, in SETTLE, in the middle of TX or while RX waits, stay queued and head the first read, and
decide the outcome as if they were the response; bytes that arrive before the drain are discarded with the others (R50, R132,
R135, R142, R191). The request leaves whole and once, however much of it had been written when they came (R134). Where acts can
fall and how much is written then is the model's (logs 12, 14); the choices in the final state are those of TransactWholeState,
and which bytes a full queue keeps is log 11. -/
def Obligations.LateBytesHeadTheFirstRead : Prop :=
  ∀ (a f : Byte) (p bs : List Byte) (n : BitVec 18) (phase : ChState) (w : Nat) (acts : List Event) (s : State),
    s.chState = .idle → n ≠ 0 → s.inbox = { phase := phase, act := .line bs, written := w } :: acts →
    State.quiet { s with inbox := acts } = true →
    (phase = .settle ∨ phase = .tx ∨ phase = .rx →
      ∃ t u, exec (.chTransact a f p n) s = .next t ∧ t.chState = phase ∧ t.rxq = [] ∧
        step t = .next u ∧ u.rxq = clip s.params.rxqCap bs ∧ u.chState = phase ∧
        step u = .next (afterTransact (clip s.params.rxqCap bs) { s with inbox := acts } a f p n)) ∧
    (phase = .drain →
      ∃ t u, exec (.chTransact a f p n) s = .next t ∧ t.chState = .drain ∧ t.rxq = s.rxq ∧
        step t = .next u ∧ u.rxq = clip s.params.rxqCap (s.rxq ++ bs) ∧ u.chState = .drain ∧
        step u = .next
          (afterTransact [] { s with inbox := acts, rxq := clip s.params.rxqCap (s.rxq ++ bs) } a f p n))

/-- CH.TRANSACT leaves the decoder, the checksum results and the parameters alone, in every state (R130, R143, R26); `res_vals`
is emptied by a failure (R161) and kept by every other end, and while the transaction has not ended. -/
def Obligations.TransactFrame : Prop :=
  ∀ (a f : Byte) (p : List Byte) (n : BitVec 18) (s : State),
    ∃ t, exec (.chTransact a f p n) s = .next t ∧ t.buf = s.buf ∧ t.hdrLen = s.hdrLen ∧ t.hdrAddr = s.hdrAddr ∧
      t.hdrCrc = s.hdrCrc ∧ t.ready = s.ready ∧ t.valid = s.valid ∧ t.resCrc = s.resCrc ∧ t.resFlag = s.resFlag ∧
      t.params = s.params ∧ t.inbox = s.inbox ∧
      t.resVals = if t.chState = .idle ∧ t.status ≠ .ok ∧ t.status ≠ .refused then [] else s.resVals

/-- The frame of the request is sent whole and once, whatever the outcome and however many reads there are (R134, R193). -/
def Obligations.RequestSentOnce : Prop :=
  ∀ (a f : Byte) (p : List Byte) (n : BitVec 18) (s : State), s.chState = .idle → s.quiet = true → n ≠ 0 →
    ∃ t, exec (.chTransact a f p n) s = .next t ∧ t.sent = s.sent ++ encodeFrame a f p

/-- CH.TRANSACT with `exp_len = 0`: refused, nothing drained, sent or read (R70 (c), R130). That `res_bytes` is emptied is
read from R161 (log 8). -/
def Obligations.TransactZeroLengthRefused : Prop :=
  ∀ (a f : Byte) (p : List Byte) (s : State), s.chState = .idle →
    exec (.chTransact a f p 0) s = .next { s with resBytes := [], status := .refused }

/-- What was queued before a transaction has no influence on it but the DISCARDED event (R37, R132, R181). -/
def Obligations.StaleBytesDoNotMatter : Prop :=
  ∀ (a f : Byte) (p q : List Byte) (n : BitVec 18) (s : State), s.chState = .idle → s.quiet = true → n ≠ 0 →
    ∃ t, exec (.chTransact a f p n) s = .next t ∧
      ∃ d, exec (.chTransact a f p n) { s with rxq := q } = .next { t with diag := d }

/-- The Channel does not read the decoder's state: with another one the transaction is the same, and the other one stays
(R26, R143). -/
def Obligations.DecoderDoesNotMatterToChannel : Prop :=
  ∀ (a f : Byte) (p b : List Byte) (n : BitVec 18) (l : Nat) (x : Byte) (c : Word) (r v : Bool) (s : State),
    ∃ t, exec (.chTransact a f p n) s = .next t ∧
      exec (.chTransact a f p n) { s with buf := b, hdrLen := l, hdrAddr := x, hdrCrc := c, ready := r, valid := v } =
        .next { t with buf := b, hdrLen := l, hdrAddr := x, hdrCrc := c, ready := r, valid := v }

/-- Both receive paths accept a response that is exactly one frame and nothing else, and yield the same payload (R143). -/
def Obligations.ReceivePathsAgree : Prop :=
  ∀ (a f a' f' : Byte) (p p' : List Byte) (n : BitVec 18) (k : Nat) (s : State), s.chState = .idle → s.quiet = true →
    s.buf = [] → fits s.params.bufCap (p'.length + 6) = true →
    s.nextDraw = { arrive := encodeFrame a' f' p', take := k } → p'.length + 6 ≤ k → p'.length + 6 ≤ n.toNat →
    ∃ t u, exec (.chTransact a f p n) s = .next t ∧ t.status = .ok ∧ t.resBytes = encodeFrame a' f' p' ∧
      Runs [.frmFeed t.resBytes, .frmTryDecode, .frmPayload] t u ∧ u.valid = true ∧ u.hdrAddr = a' ∧ u.resBytes = p' ∧
      u.resBytes = slice t.rx 3 (t.rx.length - 3)

/-- Every move of the sequencer is one of R131's, with its event, its status and all that it changes. DRAIN empties the queue and
logs what was in it (R132); SETTLE changes nothing but the sequencer (R135); TX writes what of the request had not been written
(R134); RX makes a read and goes by its first byte (R133, R137, R139); CHECK goes by the length and the checksum of the
candidate (R138), and a register read goes on to the decode (R152). So bytes that arrive after the drain stay queued. From RX
the next state is IDLE, CHECK, or RX once more, and CHECK never goes back. The scratch remainder is left open; the choices of
the model are the draws (log 3), what a bounded queue keeps (log 11), `written`, `sent` and `diag` (log 14), `req` (log 15) and
the event of a short candidate (log 22). -/
def Obligations.SequencerTransitions : Prop :=
  ∀ s : State,
    (s.chState = .idle → s.seqStep = s) ∧
    (s.chState = .drain → s.seqStep =
      { s with
        rxq := []
        diag := if s.rxq = [] then s.diag else s.diag ++ [.discarded s.rxq]
        chState := .settle }) ∧
    (s.chState = .settle → s.seqStep = { s with chState := .tx }) ∧
    (s.chState = .tx → ∃ scratch : Word, s.seqStep =
      { s with
        sent := s.sent ++ (encodeFrame s.req.address s.req.functionCode s.req.payload).drop s.written
        written := (encodeFrame s.req.address s.req.functionCode s.req.payload).length
        crcRem := scratch
        chState := .rx }) ∧
    (s.chState = .rx → s.attempt < 2 → s.seqStep = afterRead s.popDraw s.nextDraw) ∧
    (s.chState = .rx →
      s.seqStep.chState = .idle ∨ s.seqStep.chState = .check ∨
      (s.seqStep.chState = .rx ∧ s.attempt = 0 ∧ s.seqStep.attempt = 1 ∧ s.seqStep.rx.head? = some 0x00)) ∧
    (s.chState = .check →
      (s.rx.length < 6 → s.seqStep = failed { s with diag := s.diag ++ [.checksumMismatch none] } .checksumMismatch) ∧
      (6 ≤ s.rx.length →
        (crc16 (slice s.rx 1 (s.rx.length - 3)) ≠
            u16le (byteAt s.rx (s.rx.length - 3)) (byteAt s.rx (s.rx.length - 2)) →
          ∃ scratch : Word, s.seqStep =
            failed
              { s with
                crcRem := scratch
                diag := s.diag ++
                  [.checksumMismatch
                    (some (crc16 (slice s.rx 1 (s.rx.length - 3)),
                      u16le (byteAt s.rx (s.rx.length - 3)) (byteAt s.rx (s.rx.length - 2))))] }
              .checksumMismatch) ∧
        (crc16 (slice s.rx 1 (s.rx.length - 3)) =
            u16le (byteAt s.rx (s.rx.length - 3)) (byteAt s.rx (s.rx.length - 2)) →
          ∃ scratch : Word,
            (s.req.points = none → s.seqStep =
              { s with crcRem := scratch, resBytes := s.rx, status := .ok, chState := .idle }) ∧
            ∀ n, s.req.points = some n → s.seqStep =
              afterRegisterDecode { s with crcRem := scratch, resBytes := s.rx, status := .ok, chState := .idle } n)))

/-- From every state of a transaction, one step with nothing falling into it ends it in IDLE: no state waits without a
bound (R139, R197). -/
def Obligations.TransactionTerminates : Prop :=
  ∀ s : State, s.chState ≠ .idle → s.quiet = true → ∃ t, step s = .next t ∧ t.chState = .idle

/-- An operation issued while another runs is refused: `status` and nothing else (R49, R161). -/
def Obligations.BusyRefusesEveryOperation : Prop :=
  ∀ (i : Instr) (s : State), isCommand i = true → s.chState ≠ .idle → exec i s = .next { s with status := .refused }

/-- The refused operation does no harm: the transaction ends as if it had not been issued (R49, D23), and as if nothing of the
request had been written when it came (R134; log 14). -/
def Obligations.OverlapDoesNoHarm : Prop :=
  (∀ (i : Instr) (s : State), isCommand i = true → s.chState ≠ .idle → s.quiet = true →
    ∃ u, exec i s = .next u ∧ u.status = .refused ∧ step u = step s) ∧
  ∀ (s : State) (k : Nat), s.chState ≠ .idle → s.quiet = true → step (s.writeUpTo k) = step s

/-! ## Register Transaction -/

/-- REG.READ is CH.TRANSACT with function code 3, the big-endian request payload and `exp_len = 2n + 7`, followed by the
register decode (R73, R150 to R152). That `req` records the count is the model's choice (log 15). -/
def Obligations.RegReadIsTransactThenDecode : Prop :=
  ∀ (a : Byte) (start n : Word) (s : State), s.chState = .idle → s.quiet = true → n ≠ 0 → n ≤ s.params.maxPoints →
    ∃ t, exec (.chTransact a 0x03 (beBytes start ++ beBytes n) (BitVec.ofNat 18 (2 * n.toNat + 7))) s = .next t ∧
      exec (.regRead a start n) s = .next (afterRegisterDecode t n)

/-- A response of any device, with any function code, byte count and last byte, gives its registers, all and in order; the
request sent is R62's ten bytes and `exp_len` is `2n + 7` without wrapping (R141, R150 to R152). -/
def Obligations.RegReadReturnsRegisters : Prop :=
  ∀ (a : Byte) (start n : Word) (a' f' last : Byte) (bc : Option Byte) (regs : List Word) (k : Nat) (s : State),
    s.chState = .idle → s.quiet = true → n ≠ 0 → n ≤ s.params.maxPoints → regs.length = n.toNat →
    bc.isSome = s.params.byteCountByte →
    s.nextDraw = { arrive := encodeResponse a' f' bc regs last, take := k } → 2 * n.toNat + 7 ≤ k →
    ∃ t, exec (.regRead a start n) s = .next t ∧ t.status = .ok ∧ t.attempt = 1 ∧ t.resVals = regs ∧
      t.resBytes = encodeResponse a' f' bc regs last ∧ t.expLen.toNat = 2 * n.toNat + 7 ∧
      t.sent = s.sent ++
        [0x0A, a, 0x03, start.extractLsb' 8 8, start.extractLsb' 0 8, n.extractLsb' 8 8, n.extractLsb' 0 8,
          (crc16 [a, 0x03, start.extractLsb' 8 8, start.extractLsb' 0 8, n.extractLsb' 8 8, n.extractLsb' 0 8]).extractLsb' 0 8,
          (crc16 [a, 0x03, start.extractLsb' 8 8, start.extractLsb' 0 8, n.extractLsb' 8 8, n.extractLsb' 0 8]).extractLsb' 8 8,
          0x0D]

/-- REG.READ of 0 registers or of more than MAX_POINTS: refused before any line activity (R70 (c), R150). -/
def Obligations.RegReadRefused : Prop :=
  ∀ (a : Byte) (start n : Word) (s : State), s.chState = .idle → n = 0 ∨ s.params.maxPoints < n →
    exec (.regRead a start n) s = .next { s with resVals := [], status := .refused }

/-- REG.READ leaves the decoder and the other results alone, in every state (R130, R143, R150). -/
def Obligations.RegReadFrame : Prop :=
  ∀ (a : Byte) (start n : Word) (s : State),
    ∃ t, exec (.regRead a start n) s = .next t ∧ t.buf = s.buf ∧ t.hdrLen = s.hdrLen ∧ t.hdrAddr = s.hdrAddr ∧
      t.hdrCrc = s.hdrCrc ∧ t.ready = s.ready ∧ t.valid = s.valid ∧ t.resCrc = s.resCrc ∧ t.resFlag = s.resFlag ∧
      t.params = s.params ∧ t.inbox = s.inbox

/-- An op code that names no operation is refused, in every state: `status` and nothing else (R70 (a)). -/
def Obligations.UnassignedOpRefused : Prop :=
  ∀ (op : Byte) (s : State), exec (.anyOtherOp op) s = .next { s with status := .refused }

/-! ## The line -/

/-- A frame, a request or a response on the line goes to the end of the queue, in every state, and changes nothing else
(R30, R52, R60, R62, R63). That the rows act so, and that a full queue loses the newest bytes, is the model's choice (logs
9, 11). -/
def Obligations.WireFramesArrive : Prop :=
  ∀ (a f : Byte) (p : List Byte) (start n : Word) (bc : Option Byte) (regs : List Word) (last : Byte) (s : State),
    exec (.frame a f p) s = .next
      { s with
        rxq := clip s.params.rxqCap (s.rxq ++
          0x0A :: a :: f :: (p ++ [(crc16 (a :: f :: p)).extractLsb' 0 8, (crc16 (a :: f :: p)).extractLsb' 8 8, 0x0D])) } ∧
    exec (.requestReadHolding a start n) s = .next
      { s with
        rxq := clip s.params.rxqCap (s.rxq ++
          [0x0A, a, 0x03, start.extractLsb' 8 8, start.extractLsb' 0 8, n.extractLsb' 8 8, n.extractLsb' 0 8,
            (crc16 [a, 0x03, start.extractLsb' 8 8, start.extractLsb' 0 8, n.extractLsb' 8 8, n.extractLsb' 0 8]).extractLsb' 0 8,
            (crc16 [a, 0x03, start.extractLsb' 8 8, start.extractLsb' 0 8, n.extractLsb' 8 8, n.extractLsb' 0 8]).extractLsb' 8 8,
            0x0D]) } ∧
    exec (.responseReadHolding a f bc regs last) s = .next
      { s with rxq := clip s.params.rxqCap (s.rxq ++ encodeResponse a f bc regs last) }

/-- The consequence of each first-byte class for the read that RX waits for (R69, R131, R137, R139), with the whole next state.
Bytes already queued come first, the read takes no more than `exp_len`, and the surplus stays (R47, R133, R142), so the
class is that of what the read takes; where nothing is queued or scripted and the row's bytes fit, it is the row's own. Both
results are empty after a failure (R161). The model's choices: a row is an act of the line behind its script (log 10), the
bytes a bounded queue keeps (log 11), `diag` (log 14). -/
def Obligations.ReadClassConsequences : Prop :=
  ∀ (rest : List Byte) (b : Byte) (s : State), s.chState = .rx → s.attempt < 2 →
    (exec .readEmpty s = .next (readReturns s []) ∧
      exec (.readFillerLed rest) s = .next (readReturns s (0x00 :: rest)) ∧
      exec (.readOtherLed b rest) s = .next (readReturns s (b :: rest)) ∧
      exec (.readStartLed rest) s = .next (readReturns s (0x0A :: rest))) ∧
    (s.line = [] → s.rxq = [] →
      (exec .readEmpty s = .next
        { s with
          attempt := s.attempt + 1, rx := [], status := .noResponse, resBytes := [], resVals := [], chState := .idle
          diag := s.diag ++ [.noResponse] }) ∧
      (rest.length + 1 ≤ s.expLen.toNat →
        (s.attempt = 0 → exec (.readFillerLed rest) s = .next { s with attempt := 1, rx := 0x00 :: rest }) ∧
        (s.attempt = 1 → exec (.readFillerLed rest) s = .next
          { s with
            attempt := 2, rx := 0x00 :: rest, status := .resyncExhausted, resBytes := [], resVals := []
            chState := .idle }) ∧
        (b ≠ 0x00 → b ≠ 0x0A → exec (.readOtherLed b rest) s = .next
          { s with
            attempt := s.attempt + 1, rx := b :: rest, status := .framingError, resBytes := [], resVals := []
            chState := .idle, diag := s.diag ++ [.framingError (b :: rest)] }) ∧
        exec (.readStartLed rest) s = .next { s with attempt := s.attempt + 1, rx := 0x0A :: rest, chState := .check }))

/-- Outside RX a read row fixes what a later read brings and changes nothing else; the model's choice (log 10), over R133's
free draw. -/
def Obligations.ReadRowsFixLaterReads : Prop :=
  ∀ (rest : List Byte) (b : Byte) (s : State), s.chState ≠ .rx →
    exec .readEmpty s = .next { s with line := s.line ++ [{ arrive := [], take := 0 }] } ∧
    exec (.readFillerLed rest) s = .next
      { s with line := s.line ++ [{ arrive := 0x00 :: rest, take := rest.length + 1 }] } ∧
    exec (.readOtherLed b rest) s = .next { s with line := s.line ++ [{ arrive := b :: rest, take := rest.length + 1 }] } ∧
    exec (.readStartLed rest) s = .next
      { s with line := s.line ++ [{ arrive := 0x0A :: rest, take := rest.length + 1 }] }

/-! ## The machine -/

/-- A step runs the operation the host issues, when no operation is in progress or the host does not wait (R48, R49, R66);
that the act leaves the inbox is the model's own (log 2), and so is how much of a request has been written when it falls into TX
(log 14). The word placed by withFetchWord is run in the same way (log 16). -/
def Obligations.StepRunsIssuedOperation : Prop :=
  (∀ (s : State) (i : Instr) (c : Command) (phase : ChState) (w : Nat) (acts : List Event),
    i.wellFormed s.params = true → encode i = .command c →
    s.inbox = { phase := phase, act := .op c, written := w } :: acts → s.chState = .idle ∨ phase = s.chState →
    step s = exec i (State.writeUpTo { s with inbox := acts } w)) ∧
  (∀ (s : State) (w : Nat),
    (s.chState ≠ .tx → s.writeUpTo w = s) ∧
    (s.chState = .tx → s.writeUpTo w =
      { s with
        sent := s.sent ++ ((encodeFrame s.req.address s.req.functionCode s.req.payload).take w).drop s.written
        written := max s.written (min w (encodeFrame s.req.address s.req.functionCode s.req.payload).length) })) ∧
  ∀ (s : State) (op : Byte), step (s.withFetchWord 8 op.toNat) = exec (decodeCommand { op := op }) s

/-- A step that takes a burst from the line puts its bytes into the queue, frame or noise; where they are a wire row's bytes
it runs that row; and it runs the row of a read (R8, R30, R67). The model's choices: the inbox (log 2), how the rows act (logs 9,
10), that a full queue loses the newest bytes (log 11), and how much of a request has been written (log 14). -/
def Obligations.StepRunsLineActs : Prop :=
  ∀ (s : State) (bs : List Byte) (phase : ChState) (w : Nat) (acts : List Event), s.chState = .idle ∨ phase = s.chState →
    (s.inbox = { phase := phase, act := .line bs, written := w } :: acts →
      step s = .next { State.writeUpTo { s with inbox := acts } w with rxq := clip s.params.rxqCap (s.rxq ++ bs) } ∧
      ∀ i, i.wellFormed s.params = true →
        encode i = .wireFrame bs ∨ encode i = .wireRequest bs ∨ encode i = .wireResponse bs →
        step s = exec i (State.writeUpTo { s with inbox := acts } w)) ∧
    (s.inbox = { phase := phase, act := .read bs, written := w } :: acts →
      ∀ i, i.wellFormed s.params = true → encode i = .read bs →
        step s = exec i (State.writeUpTo { s with inbox := acts } w))

/-- Idle with nothing to do, the block keeps all its state (R36, R177). -/
def Obligations.IdleBlockKeepsItsState : Prop :=
  ∀ s : State, s.chState = .idle → s.inbox = [] → step s = .next s

/-- Nothing stops the machine: every instruction and every step answer a next state (R160). -/
def Obligations.NothingStopsTheBlock : Prop :=
  (∀ (i : Instr) (s : State), ∃ t, exec i s = .next t) ∧ ∀ s : State, ∃ t, step s = .next t

/-- The values R37 gives for reset. -/
def Obligations.ResetValues : Prop :=
  State.reset.buf = [] ∧ State.reset.hdrLen = 0 ∧ State.reset.hdrAddr = 0 ∧ State.reset.hdrCrc = 0 ∧
  State.reset.ready = false ∧ State.reset.valid = false ∧ State.reset.chState = .idle ∧ State.reset.attempt = 0 ∧
  State.reset.expLen = 0 ∧ State.reset.rx = [] ∧ State.reset.status = .ok ∧ State.reset.resCrc = 0 ∧
  State.reset.resFlag = false ∧ State.reset.resBytes = [] ∧ State.reset.resVals = []

/-- The reset input, taken in the middle of a transaction or between operations, gives the values of R37 and keeps the
parameters; nothing is said of `rxq`, which R37 leaves open (R180, R181). The bytes of a request that the line had been given
stay sent. That the parameters, `sent`, `diag` and the inbox stay is the model's choice (logs 13, 14). -/
def Obligations.ResetInputAborts : Prop :=
  ∀ (s : State) (phase : ChState) (w : Nat) (acts : List Event),
    s.inbox = { phase := phase, act := .reset, written := w } :: acts → s.chState = .idle ∨ phase = s.chState →
    ∃ t, step s = .next t ∧ t.buf = [] ∧ t.hdrLen = 0 ∧ t.hdrAddr = 0 ∧ t.hdrCrc = 0 ∧ t.ready = false ∧ t.valid = false ∧
      t.chState = .idle ∧ t.attempt = 0 ∧ t.expLen = 0 ∧ t.rx = [] ∧ t.status = .ok ∧ t.resCrc = 0 ∧ t.resFlag = false ∧
      t.resBytes = [] ∧ t.resVals = [] ∧ t.params = s.params ∧ t.diag = s.diag ∧ t.inbox = acts ∧
      (s.chState ≠ .tx → t.sent = s.sent) ∧
      (s.chState = .tx →
        t.sent = s.sent ++ ((encodeFrame s.req.address s.req.functionCode s.req.payload).take w).drop s.written)

/-- A request that was partly sent stays partly sent (R180): a reset that falls into TX after `w` bytes ends the transaction with
exactly those bytes of the request sent, and in IDLE. Which bytes have been written when it falls in is the act's (log 14). -/
def Obligations.AbortedRequestStaysPartlySent : Prop :=
  ∀ (a f : Byte) (p : List Byte) (n : BitVec 18) (w : Nat) (acts : List Event) (s : State),
    s.chState = .idle → n ≠ 0 → s.inbox = { phase := .tx, act := .reset, written := w } :: acts →
    ∃ t u, exec (.chTransact a f p n) s = .next t ∧ t.chState = .tx ∧ t.sent = s.sent ∧
      step t = .next u ∧ u.sent = s.sent ++ (encodeFrame a f p).take w ∧ u.chState = .idle ∧ u.status = .ok ∧
      u.attempt = 0 ∧ u.inbox = acts

/-- No step writes a parameter (R29, R32). -/
def Obligations.ParametersNeverChange : Prop :=
  ∀ s t : State, step s = .next t → t.params = s.params

/-- The invariant holds at reset (R37). That `rxq` is empty there is the model's choice (log 4). -/
def Obligations.ResetIsGood : Prop := State.reset.Inv

/-- Every step keeps the invariant: buffers within their capacities, latches and flags as R27 and R28 say, a valid span with
a right checksum (R114), at most two attempts (R23), a read no longer than `exp_len` (R25), both results empty after a failure
(R161), no more of a request written than it has bytes (R134). -/
def Obligations.StepKeepsInvariant : Prop :=
  ∀ s t : State, s.Inv → step s = .next t → t.Inv
end

