-- ==== Sys2Proof/Laws/Operands.lean ====
section
/-! SUPPORT. What the searches, the byte orders and the register pairs compute (R9, R42, R43). -/

namespace Sys2Proof.Machine

theorem firstIdx_eq_none_iff (c : Byte) (s : List Byte) : firstIdx c s = none ↔ c ∉ s := by
  induction s with
  | nil => simp [firstIdx]
  | cons b bs ih =>
    by_cases h : b = c
    · simp [firstIdx, h]
    · simp [firstIdx, h, ih, Ne.symm h, eq_comm]

/-- The first index of `c` in bytes split at the first `c`. -/
theorem firstIdx_split (c : Byte) (pre rest : List Byte) (h : c ∉ pre) :
    firstIdx c (pre ++ c :: rest) = some pre.length := by
  induction pre with
  | nil => simp [firstIdx]
  | cons b bs ih =>
    simp only [List.mem_cons, not_or] at h
    simp [firstIdx, Ne.symm h.1, ih h.2]

theorem firstIdx_eq_some (c : Byte) (s : List Byte) (i : Nat) (h : firstIdx c s = some i) :
    ∃ pre rest, s = pre ++ c :: rest ∧ c ∉ pre ∧ pre.length = i := by
  induction s generalizing i with
  | nil => simp [firstIdx] at h
  | cons b bs ih =>
    by_cases hb : b = c
    · simp only [firstIdx, hb, if_true, Option.some.injEq] at h
      exact ⟨[], bs, by simp [hb], by simp, by simpa using h⟩
    · simp only [firstIdx, hb, if_false, Option.map_eq_some_iff] at h
      obtain ⟨j, hj, rfl⟩ := h
      obtain ⟨pre, rest, rfl, hp, rfl⟩ := ih j hj
      exact ⟨b :: pre, rest, by simp, by simp [Ne.symm hb, hp], by simp⟩

theorem lastIdx_eq_none_iff (c : Byte) (s : List Byte) : lastIdx c s = none ↔ c ∉ s := by
  induction s with
  | nil => simp [lastIdx]
  | cons b bs ih =>
    cases h : lastIdx c bs with
    | some i =>
      have : c ∈ bs := by
        by_contra hc
        rw [ih.2 hc] at h
        cases h
      simp [lastIdx, h, this]
    | none =>
      have : c ∉ bs := ih.1 h
      by_cases hb : b = c
      · simp [lastIdx, h, hb]
      · simp [lastIdx, h, hb, this, Ne.symm hb]

/-- The last index of `c` in bytes split at the last `c`. -/
theorem lastIdx_split (c : Byte) (body tail : List Byte) (h : c ∉ tail) :
    lastIdx c (body ++ c :: tail) = some body.length := by
  induction body with
  | nil => simp [lastIdx, (lastIdx_eq_none_iff c tail).2 h]
  | cons b bs ih => simp [lastIdx, ih]

theorem lastIdx_eq_some (c : Byte) (s : List Byte) (i : Nat) (h : lastIdx c s = some i) :
    ∃ body tail, s = body ++ c :: tail ∧ c ∉ tail ∧ body.length = i := by
  induction s generalizing i with
  | nil => simp [lastIdx] at h
  | cons b bs ih =>
    cases hl : lastIdx c bs with
    | some j =>
      simp only [lastIdx, hl, Option.some.injEq] at h
      obtain ⟨body, tail, rfl, ht, rfl⟩ := ih j hl
      exact ⟨b :: body, tail, by simp, ht, by simpa using h⟩
    | none =>
      have hc : c ∉ bs := (lastIdx_eq_none_iff c bs).1 hl
      by_cases hb : b = c
      · simp only [lastIdx, hl, hb, if_true, Option.some.injEq] at h
        exact ⟨[], bs, by simp [hb], hc, by simpa using h⟩
      · simp [lastIdx, hl, hb] at h

/-- The checksum bytes, put together again, are the checksum (R92). -/
@[simp] theorem u16le_leBytes (v : Word) : u16le (v.extractLsb' 0 8) (v.extractLsb' 8 8) = v := by
  unfold u16le
  ext i hi
  simp only [BitVec.getElem_append, BitVec.getElem_extractLsb']
  split
  · simp [BitVec.getLsbD_eq_getElem, hi]
  · rw [show 8 + (i - 8) = i by omega]
    simp [BitVec.getLsbD_eq_getElem, hi]

@[simp] theorem u16be_beBytes (v : Word) : u16be (v.extractLsb' 8 8) (v.extractLsb' 0 8) = v := u16le_leBytes v

@[simp] theorem leBytes_u16le (l h : Byte) : leBytes (u16le l h) = [l, h] := by
  have low : ∀ i, (h ++ l : Word).getLsbD i = if i < 8 then l.getLsbD i else h.getLsbD (i - 8) := by
    intro i
    rw [BitVec.getLsbD_append]
  simp only [leBytes, u16le, List.cons.injEq, and_true]
  constructor
  · apply BitVec.eq_of_getLsbD_eq
    intro i hi
    simp [low, hi]
  · apply BitVec.eq_of_getLsbD_eq
    intro i hi
    simp [low, hi]

@[simp] theorem beBytes_u16be (h l : Byte) : beBytes (u16be h l) = [h, l] := by
  have := leBytes_u16le l h
  simp only [leBytes, u16le, List.cons.injEq, and_true] at this
  simp [beBytes, u16be, this]

@[simp] theorem leBytes_length (v : Word) : (leBytes v).length = 2 := rfl

@[simp] theorem beBytes_length (v : Word) : (beBytes v).length = 2 := rfl

@[simp] theorem registerBytes_length (ws : List Word) : (registerBytes ws).length = 2 * ws.length := by
  induction ws with
  | nil => rfl
  | cons w ws ih => simp [registerBytes, ih]; omega

/-- Register data decodes to the registers it was made from (R152). -/
@[simp] theorem registersOf_registerBytes (ws : List Word) : registersOf (registerBytes ws) = ws := by
  induction ws with
  | nil => rfl
  | cons w ws ih => simp [registerBytes, beBytes, registersOf, ih]

/-- Bytes that are whole registers are the bytes of the registers they decode to. -/
theorem registerBytes_registersOf : ∀ (bs : List Byte), bs.length % 2 = 0 → registerBytes (registersOf bs) = bs
  | [], _ => rfl
  | [_], h => by simp at h
  | h :: l :: rest, hl => by
    simp only [registersOf, registerBytes, beBytes_u16be, List.cons_append, List.nil_append]
    rw [registerBytes_registersOf rest (by simp only [List.length_cons] at hl; omega)]

theorem registersOf_length : ∀ bs : List Byte, (registersOf bs).length = bs.length / 2
  | [] => by simp [registersOf]
  | [_] => by simp [registersOf]
  | _ :: _ :: rest => by simp [registersOf, registersOf_length rest]; omega

/-- `exp_len` holds `2n + 7` without wrapping (R24, R151). -/
theorem expectedLength_toNat (n : Word) : (expectedLength n).toNat = 2 * n.toNat + 7 := by
  have := n.isLt
  simp only [expectedLength, RSP_OVERHEAD, BitVec.toNat_ofNat]
  omega

theorem slice_length (s : List Byte) (a b : Nat) : (slice s a b).length = min b s.length - a := by
  simp [slice]

/-- What stands between two parts of known length. -/
theorem slice_middle (x y z : List Byte) (a b : Nat) (ha : a = x.length) (hb : b = x.length + y.length) :
    slice (x ++ (y ++ z)) a b = y := by
  subst ha hb
  simp [slice, ← List.append_assoc]

/-- A slice that ends before the second part is a slice of the first. -/
theorem slice_append (x y : List Byte) (a b : Nat) (h : b ≤ x.length) : slice (x ++ y) a b = slice x a b := by
  simp [slice, List.take_append_of_le_length h]

theorem byteAt_append_left (x y : List Byte) (i : Nat) (h : i < x.length) : byteAt (x ++ y) i = byteAt x i := by
  simp [byteAt, List.getD, List.getElem?_append_left h]

theorem byteAt_middle (x : List Byte) (b : Byte) (z : List Byte) (i : Nat) (h : i = x.length) :
    byteAt (x ++ b :: z) i = b := by
  subst h
  simp [byteAt]

/-- What a FIFO keeps fits it. -/
theorem fits_clip (cap : Option Nat) (bs : List Byte) : fits cap (clip cap bs).length = true := by
  cases cap <;> simp [fits, clip]

/-- Nothing fits everywhere. -/
theorem fits_zero (cap : Option Nat) : fits cap 0 = true := by cases cap <;> simp [fits]

end Sys2Proof.Machine
end

