-- ==== Sys2Proof/Laws/Checksum.lean ====
section
/-! SUPPORT. The laws of `crc16` that later statements rest on (R91, R95) and the positions of a frame (R60). -/

namespace Sys2Proof.Machine

/-- The loop over a concatenation is the loop over its parts (R91 step 2). -/
theorem crcFrom_append (r : Word) (s t : List Byte) : crcFrom r (s ++ t) = crcFrom (crcFrom r s) t := by
  induction s generalizing r with
  | nil => rfl
  | cons b bs ih => simp [crcFrom, ih]

/-- An iteration loses nothing: bit 15 of its result says whether the low bit was 1 (R91 step 3). -/
theorem crcBit_injective : Function.Injective crcBit := by
  intro x y h
  have hx : ∀ v : Word, (crcBit v).getLsbD 15 = v.getLsbD 0 := by
    intro v
    unfold crcBit
    cases hv : v.getLsbD 0 <;> simp [CRC_POLY]
  have h0 : x.getLsbD 0 = y.getLsbD 0 := by rw [← hx x, ← hx y, h]
  have hs : x >>> 1 = y >>> 1 := by
    unfold crcBit at h
    rw [h0] at h
    split at h
    · exact BitVec.xor_right_inj CRC_POLY |>.1 (by simpa [BitVec.xor_comm] using h)
    · exact h
  apply BitVec.eq_of_getLsbD_eq
  intro i hi
  cases i with
  | zero => exact h0
  | succ j =>
    have := congrArg (fun v : Word => v.getLsbD j) hs
    simpa [BitVec.getLsbD_ushiftRight, Nat.add_comm] using this

theorem crcBits_injective (n : Nat) : Function.Injective (crcBits n) := by
  induction n with
  | zero => intro x y h; exact h
  | succ n ih => intro x y h; exact crcBit_injective (ih h)

/-- Different remainders stay different over the same byte. -/
theorem crcByte_injective_left (b : Byte) : Function.Injective (fun r => crcByte r b) := by
  intro x y h
  exact BitVec.xor_left_inj _ |>.1 (crcBits_injective 8 h)

/-- Different bytes give different remainders. -/
theorem crcByte_injective_right (r : Word) : Function.Injective (crcByte r) := by
  intro x y h
  have h2 := BitVec.xor_right_inj _ |>.1 (crcBits_injective 8 h)
  apply BitVec.eq_of_toNat_eq
  have h3 := congrArg BitVec.toNat h2
  have hx := x.isLt
  have hy := y.isLt
  simpa [BitVec.toNat_setWidth, Nat.mod_eq_of_lt (show x.toNat < 65536 by omega),
    Nat.mod_eq_of_lt (show y.toNat < 65536 by omega)] using h3

/-- Different remainders stay different over the same bytes. -/
theorem crcFrom_injective (s : List Byte) : Function.Injective (fun r => crcFrom r s) := by
  induction s with
  | nil => intro x y h; exact h
  | cons b bs ih => intro x y h; exact crcByte_injective_left b (ih h)

theorem crcBit_of_even (r : Word) (h : r.getLsbD 0 = false) : crcBit r = r >>> 1 := by
  rw [crcBit, h, if_neg Bool.false_ne_true]

/-- Iterations on a remainder whose low bits are 0 only shift. -/
theorem crcBits_of_low_zero (n : Nat) (r : Word) (h : ∀ i < n, r.getLsbD i = false) : crcBits n r = r >>> n := by
  induction n generalizing r with
  | zero => simp [crcBits]
  | succ n ih =>
    rw [crcBits, crcBit_of_even r (h 0 (by omega)), ih]
    · rw [← BitVec.shiftRight_add, Nat.add_comm]
    · intro i hi
      rw [BitVec.getLsbD_ushiftRight, Nat.add_comm]
      exact h _ (by omega)

/-- A byte equal to the low byte of the remainder shifts it out. -/
theorem crcByte_low (r : Word) : crcByte r (r.extractLsb' 0 8) = r >>> 8 := by
  have e : ∀ i, (r ^^^ (r.extractLsb' 0 8).zeroExtend 16).getLsbD i = (if i < 8 then false else r.getLsbD i) := by
    intro i
    by_cases h : i < 8
    · have : i < 16 := by omega
      simp [h, this]
    · simp [h]
  rw [crcByte, crcBits_of_low_zero _ _ (fun i hi => by rw [e]; simp [hi])]
  apply BitVec.eq_of_getLsbD_eq
  intro i hi
  rw [BitVec.getLsbD_ushiftRight, BitVec.getLsbD_ushiftRight, e]
  simp

/-! Positions in `START body checksum last` (R60, R63). -/

variable (body : List Byte) (last : Byte)

@[simp] theorem wrap_length : (wrap body last).length = body.length + 4 := by simp [wrap]

@[simp] theorem byteAt_wrap_start : byteAt (wrap body last) 0 = START := rfl

theorem byteAt_wrap_last : byteAt (wrap body last) ((wrap body last).length - 1) = last := by
  rw [wrap_length]
  simp only [wrap, leBytes]
  rw [show START :: (body ++ ([(crc16 body).extractLsb' 0 8, (crc16 body).extractLsb' 8 8] ++ [last]))
    = (START :: (body ++ [(crc16 body).extractLsb' 0 8, (crc16 body).extractLsb' 8 8])) ++ last :: [] by simp]
  exact byteAt_middle _ _ _ _ (by simp)

/-- The checksummed region of a frame is its body (R98). -/
@[simp] theorem checksumRegion_wrap : checksumRegion (wrap body last) = body := by
  unfold checksumRegion
  rw [wrap_length, wrap, ← List.singleton_append]
  exact slice_middle _ _ _ _ _ rfl (by simp; omega)

/-- The checksum a frame carries is that of its body (R42, R60). -/
@[simp] theorem checksumField_wrap : checksumField (wrap body last) = crc16 body := by
  unfold checksumField
  rw [wrap_length]
  have h1 : byteAt (wrap body last) (body.length + 4 - 3) = (crc16 body).extractLsb' 0 8 := by
    rw [show wrap body last = (START :: body) ++ (crc16 body).extractLsb' 0 8 :: [(crc16 body).extractLsb' 8 8, last] by
      simp [wrap, leBytes]]
    exact byteAt_middle _ _ _ _ (by simp)
  have h2 : byteAt (wrap body last) (body.length + 4 - 2) = (crc16 body).extractLsb' 8 8 := by
    rw [show wrap body last
      = (START :: (body ++ [(crc16 body).extractLsb' 0 8])) ++ (crc16 body).extractLsb' 8 8 :: [last] by
      simp [wrap, leBytes]]
    exact byteAt_middle _ _ _ _ (by simp)
  rw [h1, h2, u16le_leBytes]

/-- The payload of a frame (R116, R152). -/
@[simp] theorem payloadOf_wrap (a f : Byte) (p : List Byte) : payloadOf (wrap (frameBody a f p) last) = p := by
  unfold payloadOf
  rw [wrap_length, show wrap (frameBody a f p) last
    = [START, a, f] ++ (p ++ (leBytes (crc16 (frameBody a f p)) ++ [last])) by simp [wrap, frameBody]]
  exact slice_middle _ _ _ _ _ rfl (by simp [frameBody]; omega)

@[simp] theorem byteAt_wrap_address (a f : Byte) (p : List Byte) : byteAt (wrap (frameBody a f p) last) 1 = a := rfl

@[simp] theorem byteAt_wrap_functionCode (a f : Byte) (p : List Byte) : byteAt (wrap (frameBody a f p) last) 2 = f := rfl

@[simp] theorem frameBody_length (a f : Byte) (p : List Byte) : (frameBody a f p).length = p.length + 2 := rfl

theorem encodeFrame_eq_wrap (a f : Byte) (p : List Byte) : encodeFrame a f p = wrap (frameBody a f p) END := rfl

/-- Bytes of four or more that begin with START and carry the checksum of their region are a wrapped region. -/
theorem eq_wrap_of_checksum (s : List Byte) (h4 : 4 ≤ s.length) (h0 : byteAt s 0 = START)
    (hc : crc16 (checksumRegion s) = checksumField s) :
    s = wrap (checksumRegion s) (byteAt s (s.length - 1)) := by
  obtain ⟨b0, t, rfl⟩ : ∃ b t, s = b :: t := by cases s with
    | nil => simp at h4
    | cons b t => exact ⟨b, t, rfl⟩
  obtain rfl : b0 = START := h0
  have ht : 3 ≤ t.length := by simpa using h4
  have hs : t = t.take (t.length - 3) ++ t.drop (t.length - 3) := (List.take_append_drop _ _).symm
  obtain ⟨x, y, z, hd⟩ : ∃ x y z, t.drop (t.length - 3) = [x, y, z] := by
    have : (t.drop (t.length - 3)).length = 3 := by simp; omega
    match h : t.drop (t.length - 3), this with
    | [x, y, z], _ => exact ⟨x, y, z, rfl⟩
  have hlen : (t.take (t.length - 3)).length = t.length - 3 := by simp
  generalize hbody : t.take (t.length - 3) = body at *
  rw [hd] at hs
  have htl : t.length = body.length + 3 := by rw [hs]; simp
  subst hs
  have hr : checksumRegion (START :: (body ++ [x, y, z])) = body := by
    unfold checksumRegion
    rw [show START :: (body ++ [x, y, z]) = [START] ++ (body ++ [x, y, z]) by simp]
    exact slice_middle _ _ _ _ _ rfl (by simp; omega)
  have hx : byteAt (START :: (body ++ [x, y, z])) ((START :: (body ++ [x, y, z])).length - 3) = x := by
    rw [show START :: (body ++ [x, y, z]) = (START :: body) ++ x :: [y, z] by simp]
    exact byteAt_middle _ _ _ _ (by simp)
  have hy : byteAt (START :: (body ++ [x, y, z])) ((START :: (body ++ [x, y, z])).length - 2) = y := by
    rw [show START :: (body ++ [x, y, z]) = (START :: (body ++ [x])) ++ y :: [z] by simp]
    exact byteAt_middle _ _ _ _ (by simp)
  have hz : byteAt (START :: (body ++ [x, y, z])) ((START :: (body ++ [x, y, z])).length - 1) = z := by
    rw [show START :: (body ++ [x, y, z]) = (START :: (body ++ [x, y])) ++ z :: [] by simp]
    exact byteAt_middle _ _ _ _ (by simp)
  rw [hr, checksumField, hx, hy] at hc
  rw [hr, hz, wrap, hc, leBytes_u16le]
  simp

end Sys2Proof.Machine
end

