-- ==== Sys2Proof/Laws/Flags.lean ====
section
/-! SUPPORT. What a search of the decoder buffer can find (R112 to R114), said once, and the classes of a read (R69). -/

namespace Sys2Proof.Machine

/-- No START: not ready, nothing consumed (R112 step 1). -/
theorem scan_of_no_start (buf : List Byte) (h : START ∉ buf) : scan buf = Scan.notReady buf := by
  simp [scan, (firstIdx_eq_none_iff START buf).2 h]

/-- The bytes before the first START are discarded (R112 step 2). -/
theorem scan_of_noise (noise rest : List Byte) (h : START ∉ noise) :
    scan (noise ++ START :: rest) = scanFromStart (START :: rest) := by
  simp [scan, firstIdx_split START noise rest h]

/-- No END after START: not ready (R112 step 3). -/
theorem scanFromStart_of_no_end (rest : List Byte) (h : END ∉ rest) :
    scanFromStart (START :: rest) = Scan.notReady (START :: rest) := by
  have : END ∉ START :: rest := by
    rw [List.mem_cons, not_or]
    exact ⟨by decide, h⟩
  simp [scanFromStart, (lastIdx_eq_none_iff END _).2 this]

/-- The last END ends the span; a span of two bytes is not ready (R112 steps 3 and 4). -/
theorem scanFromStart_of_span (body tail : List Byte) (h : END ∉ tail) :
    scanFromStart (START :: (body ++ END :: tail)) =
      if body = [] then Scan.notReady (START :: (body ++ END :: tail))
      else scanSpan (START :: (body ++ END :: tail)) (body.length + 1) := by
  have := lastIdx_split END (START :: body) tail h
  simp only [List.cons_append, List.length_cons] at this
  simp only [scanFromStart, this]
  by_cases hb : body = []
  · simp [hb]
  · have : body.length ≠ 0 := by simpa using hb
    rw [if_neg hb, if_neg (show ¬ body.length + 1 + 1 < 3 by omega)]

/-- Every search ends in one of these ways; in the last one the buffer is a frame candidate `START body END tail`. -/
theorem scan_cases (buf : List Byte) :
    (START ∉ buf ∧ scan buf = Scan.notReady buf) ∨
    (∃ noise rest, buf = noise ++ START :: rest ∧ START ∉ noise ∧ scan buf = Scan.notReady (START :: rest)) ∨
    (∃ noise body tail, buf = noise ++ START :: (body ++ END :: tail) ∧ START ∉ noise ∧ END ∉ tail ∧ body ≠ [] ∧
      scan buf = scanSpan (START :: (body ++ END :: tail)) (body.length + 1)) := by
  by_cases h : START ∈ buf
  · right
    obtain ⟨i, hi⟩ : ∃ i, firstIdx START buf = some i :=
      Option.ne_none_iff_exists'.1 (fun hn => (firstIdx_eq_none_iff START buf).1 hn h)
    obtain ⟨noise, rest, rfl, hn, -⟩ := firstIdx_eq_some START buf i hi
    rw [scan_of_noise noise rest hn]
    by_cases he : END ∈ rest
    · obtain ⟨j, hj⟩ : ∃ j, lastIdx END rest = some j :=
        Option.ne_none_iff_exists'.1 (fun hn => (lastIdx_eq_none_iff END rest).1 hn he)
      obtain ⟨body, tail, rfl, ht, -⟩ := lastIdx_eq_some END rest j hj
      rw [scanFromStart_of_span body tail ht]
      by_cases hb : body = []
      · exact .inl ⟨noise, _, rfl, hn, by simp [hb]⟩
      · exact .inr ⟨noise, body, tail, rfl, hn, ht, hb, by simp [hb]⟩
    · exact .inl ⟨noise, rest, rfl, hn, scanFromStart_of_no_end rest he⟩
  · exact .inl ⟨h, scan_of_no_start buf h⟩

/-- A frame the encoder built, with anything behind it that holds no END: valid, with its address and length (R114). -/
theorem scanFromStart_encodeFrame (a f : Byte) (p tail : List Byte) (h : END ∉ tail) :
    scanFromStart (encodeFrame a f p ++ tail) =
      { buf := encodeFrame a f p ++ tail, hdrLen := p.length + 6, hdrAddr := a
        hdrCrc := crc16 (frameBody a f p), ready := true, valid := true } := by
  have e : encodeFrame a f p ++ tail
      = START :: ((frameBody a f p ++ leBytes (crc16 (frameBody a f p))) ++ END :: tail) := by
    simp [encodeFrame, wrap]
  rw [e, scanFromStart_of_span _ _ h, if_neg (by simp [frameBody]), ← e]
  have hl : (encodeFrame a f p).length = p.length + 6 := by simp [encodeFrame]
  have hc := checksumField_wrap (frameBody a f p) END
  have hr := checksumRegion_wrap (frameBody a f p) END
  rw [← encodeFrame_eq_wrap] at hc hr
  unfold checksumField at hc
  unfold checksumRegion at hr
  rw [hl] at hc hr
  have hlen : (frameBody a f p ++ leBytes (crc16 (frameBody a f p))).length + 1 = p.length + 5 := by simp
  have h2 : byteAt (encodeFrame a f p ++ tail) (p.length + 5 - 2) = byteAt (encodeFrame a f p) (p.length + 6 - 3) := by
    rw [byteAt_append_left _ _ _ (by omega)]
    congr 1
  have h3 : byteAt (encodeFrame a f p ++ tail) (p.length + 5 - 1) = byteAt (encodeFrame a f p) (p.length + 6 - 2) := by
    rw [byteAt_append_left _ _ _ (by omega)]
    congr 1
  have hs : spanRegion (encodeFrame a f p ++ tail) (p.length + 5) = frameBody a f p := by
    rw [spanRegion, slice_append _ _ _ _ (by omega)]
    exact hr
  rw [hlen]
  simp only [scanSpan, h2, h3, hs, hc, MIN_FRAME]
  simp [encodeFrame_eq_wrap, byteAt_append_left]

/-- The class of a read by its bytes (R69). -/
theorem readClass_nil : readClass [] = .empty := rfl

theorem readClass_cons (b : Byte) (rest : List Byte) : readClass (b :: rest) =
    if b = FILLER then .fillerLed else if b = START then .startLed else .otherLed := by
  unfold readClass decodeRead
  by_cases h : b = FILLER
  · simp [h]
  · by_cases h' : b = START
    · simp [h', START, FILLER]
    · simp [h, h']

end Sys2Proof.Machine
end

