-- ==== Sys2Proof/Laws/State.lean ====
section
/-! SUPPORT. What each named update of the state does to each field. -/

namespace Sys2Proof.Machine

variable (s : State)

@[simp] theorem State.refuse_crcRem : s.refuse.crcRem = s.crcRem := rfl
@[simp] theorem State.refuse_buf : s.refuse.buf = s.buf := rfl
@[simp] theorem State.refuse_hdrLen : s.refuse.hdrLen = s.hdrLen := rfl
@[simp] theorem State.refuse_hdrAddr : s.refuse.hdrAddr = s.hdrAddr := rfl
@[simp] theorem State.refuse_hdrCrc : s.refuse.hdrCrc = s.hdrCrc := rfl
@[simp] theorem State.refuse_ready : s.refuse.ready = s.ready := rfl
@[simp] theorem State.refuse_valid : s.refuse.valid = s.valid := rfl
@[simp] theorem State.refuse_rxq : s.refuse.rxq = s.rxq := rfl
@[simp] theorem State.refuse_chState : s.refuse.chState = s.chState := rfl
@[simp] theorem State.refuse_attempt : s.refuse.attempt = s.attempt := rfl
@[simp] theorem State.refuse_expLen : s.refuse.expLen = s.expLen := rfl
@[simp] theorem State.refuse_rx : s.refuse.rx = s.rx := rfl
@[simp] theorem State.refuse_status : s.refuse.status = .refused := rfl
@[simp] theorem State.refuse_resCrc : s.refuse.resCrc = s.resCrc := rfl
@[simp] theorem State.refuse_resFlag : s.refuse.resFlag = s.resFlag := rfl
@[simp] theorem State.refuse_resBytes : s.refuse.resBytes = s.resBytes := rfl
@[simp] theorem State.refuse_resVals : s.refuse.resVals = s.resVals := rfl
@[simp] theorem State.refuse_params : s.refuse.params = s.params := rfl
@[simp] theorem State.refuse_req : s.refuse.req = s.req := rfl
@[simp] theorem State.refuse_written : s.refuse.written = s.written := rfl
@[simp] theorem State.refuse_inbox : s.refuse.inbox = s.inbox := rfl
@[simp] theorem State.refuse_line : s.refuse.line = s.line := rfl
@[simp] theorem State.refuse_draws : s.refuse.draws = s.draws := rfl
@[simp] theorem State.refuse_sent : s.refuse.sent = s.sent := rfl
@[simp] theorem State.refuse_diag : s.refuse.diag = s.diag := rfl

@[simp] theorem State.clearLatches_crcRem : s.clearLatches.crcRem = s.crcRem := rfl
@[simp] theorem State.clearLatches_buf : s.clearLatches.buf = s.buf := rfl
@[simp] theorem State.clearLatches_hdrLen : s.clearLatches.hdrLen = 0 := rfl
@[simp] theorem State.clearLatches_hdrAddr : s.clearLatches.hdrAddr = 0 := rfl
@[simp] theorem State.clearLatches_hdrCrc : s.clearLatches.hdrCrc = 0 := rfl
@[simp] theorem State.clearLatches_ready : s.clearLatches.ready = false := rfl
@[simp] theorem State.clearLatches_valid : s.clearLatches.valid = false := rfl
@[simp] theorem State.clearLatches_rxq : s.clearLatches.rxq = s.rxq := rfl
@[simp] theorem State.clearLatches_chState : s.clearLatches.chState = s.chState := rfl
@[simp] theorem State.clearLatches_attempt : s.clearLatches.attempt = s.attempt := rfl
@[simp] theorem State.clearLatches_expLen : s.clearLatches.expLen = s.expLen := rfl
@[simp] theorem State.clearLatches_rx : s.clearLatches.rx = s.rx := rfl
@[simp] theorem State.clearLatches_status : s.clearLatches.status = s.status := rfl
@[simp] theorem State.clearLatches_resCrc : s.clearLatches.resCrc = s.resCrc := rfl
@[simp] theorem State.clearLatches_resFlag : s.clearLatches.resFlag = s.resFlag := rfl
@[simp] theorem State.clearLatches_resBytes : s.clearLatches.resBytes = s.resBytes := rfl
@[simp] theorem State.clearLatches_resVals : s.clearLatches.resVals = s.resVals := rfl
@[simp] theorem State.clearLatches_params : s.clearLatches.params = s.params := rfl
@[simp] theorem State.clearLatches_req : s.clearLatches.req = s.req := rfl
@[simp] theorem State.clearLatches_written : s.clearLatches.written = s.written := rfl
@[simp] theorem State.clearLatches_inbox : s.clearLatches.inbox = s.inbox := rfl
@[simp] theorem State.clearLatches_line : s.clearLatches.line = s.line := rfl
@[simp] theorem State.clearLatches_draws : s.clearLatches.draws = s.draws := rfl
@[simp] theorem State.clearLatches_sent : s.clearLatches.sent = s.sent := rfl
@[simp] theorem State.clearLatches_diag : s.clearLatches.diag = s.diag := rfl

@[simp] theorem State.emit_crcRem (d : Diag) : (s.emit d).crcRem = s.crcRem := rfl
@[simp] theorem State.emit_buf (d : Diag) : (s.emit d).buf = s.buf := rfl
@[simp] theorem State.emit_hdrLen (d : Diag) : (s.emit d).hdrLen = s.hdrLen := rfl
@[simp] theorem State.emit_hdrAddr (d : Diag) : (s.emit d).hdrAddr = s.hdrAddr := rfl
@[simp] theorem State.emit_hdrCrc (d : Diag) : (s.emit d).hdrCrc = s.hdrCrc := rfl
@[simp] theorem State.emit_ready (d : Diag) : (s.emit d).ready = s.ready := rfl
@[simp] theorem State.emit_valid (d : Diag) : (s.emit d).valid = s.valid := rfl
@[simp] theorem State.emit_rxq (d : Diag) : (s.emit d).rxq = s.rxq := rfl
@[simp] theorem State.emit_chState (d : Diag) : (s.emit d).chState = s.chState := rfl
@[simp] theorem State.emit_attempt (d : Diag) : (s.emit d).attempt = s.attempt := rfl
@[simp] theorem State.emit_expLen (d : Diag) : (s.emit d).expLen = s.expLen := rfl
@[simp] theorem State.emit_rx (d : Diag) : (s.emit d).rx = s.rx := rfl
@[simp] theorem State.emit_status (d : Diag) : (s.emit d).status = s.status := rfl
@[simp] theorem State.emit_resCrc (d : Diag) : (s.emit d).resCrc = s.resCrc := rfl
@[simp] theorem State.emit_resFlag (d : Diag) : (s.emit d).resFlag = s.resFlag := rfl
@[simp] theorem State.emit_resBytes (d : Diag) : (s.emit d).resBytes = s.resBytes := rfl
@[simp] theorem State.emit_resVals (d : Diag) : (s.emit d).resVals = s.resVals := rfl
@[simp] theorem State.emit_params (d : Diag) : (s.emit d).params = s.params := rfl
@[simp] theorem State.emit_req (d : Diag) : (s.emit d).req = s.req := rfl
@[simp] theorem State.emit_written (d : Diag) : (s.emit d).written = s.written := rfl
@[simp] theorem State.emit_inbox (d : Diag) : (s.emit d).inbox = s.inbox := rfl
@[simp] theorem State.emit_line (d : Diag) : (s.emit d).line = s.line := rfl
@[simp] theorem State.emit_draws (d : Diag) : (s.emit d).draws = s.draws := rfl
@[simp] theorem State.emit_sent (d : Diag) : (s.emit d).sent = s.sent := rfl
@[simp] theorem State.emit_diag (d : Diag) : (s.emit d).diag = s.diag ++ [d] := rfl

@[simp] theorem State.fail_crcRem (st : Status) : (s.fail st).crcRem = s.crcRem := rfl
@[simp] theorem State.fail_buf (st : Status) : (s.fail st).buf = s.buf := rfl
@[simp] theorem State.fail_hdrLen (st : Status) : (s.fail st).hdrLen = s.hdrLen := rfl
@[simp] theorem State.fail_hdrAddr (st : Status) : (s.fail st).hdrAddr = s.hdrAddr := rfl
@[simp] theorem State.fail_hdrCrc (st : Status) : (s.fail st).hdrCrc = s.hdrCrc := rfl
@[simp] theorem State.fail_ready (st : Status) : (s.fail st).ready = s.ready := rfl
@[simp] theorem State.fail_valid (st : Status) : (s.fail st).valid = s.valid := rfl
@[simp] theorem State.fail_rxq (st : Status) : (s.fail st).rxq = s.rxq := rfl
@[simp] theorem State.fail_chState (st : Status) : (s.fail st).chState = .idle := rfl
@[simp] theorem State.fail_attempt (st : Status) : (s.fail st).attempt = s.attempt := rfl
@[simp] theorem State.fail_expLen (st : Status) : (s.fail st).expLen = s.expLen := rfl
@[simp] theorem State.fail_rx (st : Status) : (s.fail st).rx = s.rx := rfl
@[simp] theorem State.fail_status (st : Status) : (s.fail st).status = st := rfl
@[simp] theorem State.fail_resCrc (st : Status) : (s.fail st).resCrc = s.resCrc := rfl
@[simp] theorem State.fail_resFlag (st : Status) : (s.fail st).resFlag = s.resFlag := rfl
@[simp] theorem State.fail_resBytes (st : Status) : (s.fail st).resBytes = [] := rfl
@[simp] theorem State.fail_resVals (st : Status) : (s.fail st).resVals = [] := rfl
@[simp] theorem State.fail_params (st : Status) : (s.fail st).params = s.params := rfl
@[simp] theorem State.fail_req (st : Status) : (s.fail st).req = s.req := rfl
@[simp] theorem State.fail_written (st : Status) : (s.fail st).written = s.written := rfl
@[simp] theorem State.fail_inbox (st : Status) : (s.fail st).inbox = s.inbox := rfl
@[simp] theorem State.fail_line (st : Status) : (s.fail st).line = s.line := rfl
@[simp] theorem State.fail_draws (st : Status) : (s.fail st).draws = s.draws := rfl
@[simp] theorem State.fail_sent (st : Status) : (s.fail st).sent = s.sent := rfl
@[simp] theorem State.fail_diag (st : Status) : (s.fail st).diag = s.diag := rfl

@[simp] theorem State.lineAppend_crcRem (bs : List Byte) : (s.lineAppend bs).crcRem = s.crcRem := rfl
@[simp] theorem State.lineAppend_buf (bs : List Byte) : (s.lineAppend bs).buf = s.buf := rfl
@[simp] theorem State.lineAppend_hdrLen (bs : List Byte) : (s.lineAppend bs).hdrLen = s.hdrLen := rfl
@[simp] theorem State.lineAppend_hdrAddr (bs : List Byte) : (s.lineAppend bs).hdrAddr = s.hdrAddr := rfl
@[simp] theorem State.lineAppend_hdrCrc (bs : List Byte) : (s.lineAppend bs).hdrCrc = s.hdrCrc := rfl
@[simp] theorem State.lineAppend_ready (bs : List Byte) : (s.lineAppend bs).ready = s.ready := rfl
@[simp] theorem State.lineAppend_valid (bs : List Byte) : (s.lineAppend bs).valid = s.valid := rfl
@[simp] theorem State.lineAppend_rxq (bs : List Byte) : (s.lineAppend bs).rxq = clip s.params.rxqCap (s.rxq ++ bs) := rfl
@[simp] theorem State.lineAppend_chState (bs : List Byte) : (s.lineAppend bs).chState = s.chState := rfl
@[simp] theorem State.lineAppend_attempt (bs : List Byte) : (s.lineAppend bs).attempt = s.attempt := rfl
@[simp] theorem State.lineAppend_expLen (bs : List Byte) : (s.lineAppend bs).expLen = s.expLen := rfl
@[simp] theorem State.lineAppend_rx (bs : List Byte) : (s.lineAppend bs).rx = s.rx := rfl
@[simp] theorem State.lineAppend_status (bs : List Byte) : (s.lineAppend bs).status = s.status := rfl
@[simp] theorem State.lineAppend_resCrc (bs : List Byte) : (s.lineAppend bs).resCrc = s.resCrc := rfl
@[simp] theorem State.lineAppend_resFlag (bs : List Byte) : (s.lineAppend bs).resFlag = s.resFlag := rfl
@[simp] theorem State.lineAppend_resBytes (bs : List Byte) : (s.lineAppend bs).resBytes = s.resBytes := rfl
@[simp] theorem State.lineAppend_resVals (bs : List Byte) : (s.lineAppend bs).resVals = s.resVals := rfl
@[simp] theorem State.lineAppend_params (bs : List Byte) : (s.lineAppend bs).params = s.params := rfl
@[simp] theorem State.lineAppend_req (bs : List Byte) : (s.lineAppend bs).req = s.req := rfl
@[simp] theorem State.lineAppend_written (bs : List Byte) : (s.lineAppend bs).written = s.written := rfl
@[simp] theorem State.lineAppend_inbox (bs : List Byte) : (s.lineAppend bs).inbox = s.inbox := rfl
@[simp] theorem State.lineAppend_line (bs : List Byte) : (s.lineAppend bs).line = s.line := rfl
@[simp] theorem State.lineAppend_draws (bs : List Byte) : (s.lineAppend bs).draws = s.draws := rfl
@[simp] theorem State.lineAppend_sent (bs : List Byte) : (s.lineAppend bs).sent = s.sent := rfl
@[simp] theorem State.lineAppend_diag (bs : List Byte) : (s.lineAppend bs).diag = s.diag := rfl

@[simp] theorem State.drainStep_crcRem : s.drainStep.crcRem = s.crcRem := rfl
@[simp] theorem State.drainStep_buf : s.drainStep.buf = s.buf := rfl
@[simp] theorem State.drainStep_hdrLen : s.drainStep.hdrLen = s.hdrLen := rfl
@[simp] theorem State.drainStep_hdrAddr : s.drainStep.hdrAddr = s.hdrAddr := rfl
@[simp] theorem State.drainStep_hdrCrc : s.drainStep.hdrCrc = s.hdrCrc := rfl
@[simp] theorem State.drainStep_ready : s.drainStep.ready = s.ready := rfl
@[simp] theorem State.drainStep_valid : s.drainStep.valid = s.valid := rfl
@[simp] theorem State.drainStep_rxq : s.drainStep.rxq = [] := rfl
@[simp] theorem State.drainStep_chState : s.drainStep.chState = .settle := rfl
@[simp] theorem State.drainStep_attempt : s.drainStep.attempt = s.attempt := rfl
@[simp] theorem State.drainStep_expLen : s.drainStep.expLen = s.expLen := rfl
@[simp] theorem State.drainStep_rx : s.drainStep.rx = s.rx := rfl
@[simp] theorem State.drainStep_status : s.drainStep.status = s.status := rfl
@[simp] theorem State.drainStep_resCrc : s.drainStep.resCrc = s.resCrc := rfl
@[simp] theorem State.drainStep_resFlag : s.drainStep.resFlag = s.resFlag := rfl
@[simp] theorem State.drainStep_resBytes : s.drainStep.resBytes = s.resBytes := rfl
@[simp] theorem State.drainStep_resVals : s.drainStep.resVals = s.resVals := rfl
@[simp] theorem State.drainStep_params : s.drainStep.params = s.params := rfl
@[simp] theorem State.drainStep_req : s.drainStep.req = s.req := rfl
@[simp] theorem State.drainStep_written : s.drainStep.written = s.written := rfl
@[simp] theorem State.drainStep_inbox : s.drainStep.inbox = s.inbox := rfl
@[simp] theorem State.drainStep_line : s.drainStep.line = s.line := rfl
@[simp] theorem State.drainStep_draws : s.drainStep.draws = s.draws := rfl
@[simp] theorem State.drainStep_sent : s.drainStep.sent = s.sent := rfl
@[simp] theorem State.drainStep_diag : s.drainStep.diag = (if s.rxq = [] then s.diag else s.diag ++ [.discarded s.rxq]) := rfl

@[simp] theorem State.settleStep_crcRem : s.settleStep.crcRem = s.crcRem := rfl
@[simp] theorem State.settleStep_buf : s.settleStep.buf = s.buf := rfl
@[simp] theorem State.settleStep_hdrLen : s.settleStep.hdrLen = s.hdrLen := rfl
@[simp] theorem State.settleStep_hdrAddr : s.settleStep.hdrAddr = s.hdrAddr := rfl
@[simp] theorem State.settleStep_hdrCrc : s.settleStep.hdrCrc = s.hdrCrc := rfl
@[simp] theorem State.settleStep_ready : s.settleStep.ready = s.ready := rfl
@[simp] theorem State.settleStep_valid : s.settleStep.valid = s.valid := rfl
@[simp] theorem State.settleStep_rxq : s.settleStep.rxq = s.rxq := rfl
@[simp] theorem State.settleStep_chState : s.settleStep.chState = .tx := rfl
@[simp] theorem State.settleStep_attempt : s.settleStep.attempt = s.attempt := rfl
@[simp] theorem State.settleStep_expLen : s.settleStep.expLen = s.expLen := rfl
@[simp] theorem State.settleStep_rx : s.settleStep.rx = s.rx := rfl
@[simp] theorem State.settleStep_status : s.settleStep.status = s.status := rfl
@[simp] theorem State.settleStep_resCrc : s.settleStep.resCrc = s.resCrc := rfl
@[simp] theorem State.settleStep_resFlag : s.settleStep.resFlag = s.resFlag := rfl
@[simp] theorem State.settleStep_resBytes : s.settleStep.resBytes = s.resBytes := rfl
@[simp] theorem State.settleStep_resVals : s.settleStep.resVals = s.resVals := rfl
@[simp] theorem State.settleStep_params : s.settleStep.params = s.params := rfl
@[simp] theorem State.settleStep_req : s.settleStep.req = s.req := rfl
@[simp] theorem State.settleStep_written : s.settleStep.written = s.written := rfl
@[simp] theorem State.settleStep_inbox : s.settleStep.inbox = s.inbox := rfl
@[simp] theorem State.settleStep_line : s.settleStep.line = s.line := rfl
@[simp] theorem State.settleStep_draws : s.settleStep.draws = s.draws := rfl
@[simp] theorem State.settleStep_sent : s.settleStep.sent = s.sent := rfl
@[simp] theorem State.settleStep_diag : s.settleStep.diag = s.diag := rfl

@[simp] theorem State.transmitStep_crcRem : s.transmitStep.crcRem = crc16 (frameBody s.req.address s.req.functionCode s.req.payload) := rfl
@[simp] theorem State.transmitStep_buf : s.transmitStep.buf = s.buf := rfl
@[simp] theorem State.transmitStep_hdrLen : s.transmitStep.hdrLen = s.hdrLen := rfl
@[simp] theorem State.transmitStep_hdrAddr : s.transmitStep.hdrAddr = s.hdrAddr := rfl
@[simp] theorem State.transmitStep_hdrCrc : s.transmitStep.hdrCrc = s.hdrCrc := rfl
@[simp] theorem State.transmitStep_ready : s.transmitStep.ready = s.ready := rfl
@[simp] theorem State.transmitStep_valid : s.transmitStep.valid = s.valid := rfl
@[simp] theorem State.transmitStep_rxq : s.transmitStep.rxq = s.rxq := rfl
@[simp] theorem State.transmitStep_chState : s.transmitStep.chState = .rx := rfl
@[simp] theorem State.transmitStep_attempt : s.transmitStep.attempt = s.attempt := rfl
@[simp] theorem State.transmitStep_expLen : s.transmitStep.expLen = s.expLen := rfl
@[simp] theorem State.transmitStep_rx : s.transmitStep.rx = s.rx := rfl
@[simp] theorem State.transmitStep_status : s.transmitStep.status = s.status := rfl
@[simp] theorem State.transmitStep_resCrc : s.transmitStep.resCrc = s.resCrc := rfl
@[simp] theorem State.transmitStep_resFlag : s.transmitStep.resFlag = s.resFlag := rfl
@[simp] theorem State.transmitStep_resBytes : s.transmitStep.resBytes = s.resBytes := rfl
@[simp] theorem State.transmitStep_resVals : s.transmitStep.resVals = s.resVals := rfl
@[simp] theorem State.transmitStep_params : s.transmitStep.params = s.params := rfl
@[simp] theorem State.transmitStep_req : s.transmitStep.req = s.req := rfl
@[simp] theorem State.transmitStep_written : s.transmitStep.written = s.req.bytes.length := rfl
@[simp] theorem State.transmitStep_inbox : s.transmitStep.inbox = s.inbox := rfl
@[simp] theorem State.transmitStep_line : s.transmitStep.line = s.line := rfl
@[simp] theorem State.transmitStep_draws : s.transmitStep.draws = s.draws := rfl
@[simp] theorem State.transmitStep_sent : s.transmitStep.sent = s.sent ++ s.req.bytes.drop s.written := rfl
@[simp] theorem State.transmitStep_diag : s.transmitStep.diag = s.diag := rfl

@[simp] theorem State.lineRead_crcRem (d : LineDraw) : (s.lineRead d).crcRem = s.crcRem := rfl
@[simp] theorem State.lineRead_buf (d : LineDraw) : (s.lineRead d).buf = s.buf := rfl
@[simp] theorem State.lineRead_hdrLen (d : LineDraw) : (s.lineRead d).hdrLen = s.hdrLen := rfl
@[simp] theorem State.lineRead_hdrAddr (d : LineDraw) : (s.lineRead d).hdrAddr = s.hdrAddr := rfl
@[simp] theorem State.lineRead_hdrCrc (d : LineDraw) : (s.lineRead d).hdrCrc = s.hdrCrc := rfl
@[simp] theorem State.lineRead_ready (d : LineDraw) : (s.lineRead d).ready = s.ready := rfl
@[simp] theorem State.lineRead_valid (d : LineDraw) : (s.lineRead d).valid = s.valid := rfl
@[simp] theorem State.lineRead_rxq (d : LineDraw) : (s.lineRead d).rxq = lineReadRest s.params.rxqCap s.rxq d s.expLen.toNat := rfl
@[simp] theorem State.lineRead_chState (d : LineDraw) : (s.lineRead d).chState = s.chState := rfl
@[simp] theorem State.lineRead_attempt (d : LineDraw) : (s.lineRead d).attempt = s.attempt + 1 := rfl
@[simp] theorem State.lineRead_expLen (d : LineDraw) : (s.lineRead d).expLen = s.expLen := rfl
@[simp] theorem State.lineRead_rx (d : LineDraw) : (s.lineRead d).rx = lineReadResult s.rxq d s.expLen.toNat := rfl
@[simp] theorem State.lineRead_status (d : LineDraw) : (s.lineRead d).status = s.status := rfl
@[simp] theorem State.lineRead_resCrc (d : LineDraw) : (s.lineRead d).resCrc = s.resCrc := rfl
@[simp] theorem State.lineRead_resFlag (d : LineDraw) : (s.lineRead d).resFlag = s.resFlag := rfl
@[simp] theorem State.lineRead_resBytes (d : LineDraw) : (s.lineRead d).resBytes = s.resBytes := rfl
@[simp] theorem State.lineRead_resVals (d : LineDraw) : (s.lineRead d).resVals = s.resVals := rfl
@[simp] theorem State.lineRead_params (d : LineDraw) : (s.lineRead d).params = s.params := rfl
@[simp] theorem State.lineRead_req (d : LineDraw) : (s.lineRead d).req = s.req := rfl
@[simp] theorem State.lineRead_written (d : LineDraw) : (s.lineRead d).written = s.written := rfl
@[simp] theorem State.lineRead_inbox (d : LineDraw) : (s.lineRead d).inbox = s.inbox := rfl
@[simp] theorem State.lineRead_line (d : LineDraw) : (s.lineRead d).line = s.line := rfl
@[simp] theorem State.lineRead_draws (d : LineDraw) : (s.lineRead d).draws = s.draws := rfl
@[simp] theorem State.lineRead_sent (d : LineDraw) : (s.lineRead d).sent = s.sent := rfl
@[simp] theorem State.lineRead_diag (d : LineDraw) : (s.lineRead d).diag = s.diag := rfl

@[simp] theorem State.startTransaction_crcRem (r : Request) (n : BitVec 18) : (s.startTransaction r n).crcRem = s.crcRem := rfl
@[simp] theorem State.startTransaction_buf (r : Request) (n : BitVec 18) : (s.startTransaction r n).buf = s.buf := rfl
@[simp] theorem State.startTransaction_hdrLen (r : Request) (n : BitVec 18) : (s.startTransaction r n).hdrLen = s.hdrLen := rfl
@[simp] theorem State.startTransaction_hdrAddr (r : Request) (n : BitVec 18) : (s.startTransaction r n).hdrAddr = s.hdrAddr := rfl
@[simp] theorem State.startTransaction_hdrCrc (r : Request) (n : BitVec 18) : (s.startTransaction r n).hdrCrc = s.hdrCrc := rfl
@[simp] theorem State.startTransaction_ready (r : Request) (n : BitVec 18) : (s.startTransaction r n).ready = s.ready := rfl
@[simp] theorem State.startTransaction_valid (r : Request) (n : BitVec 18) : (s.startTransaction r n).valid = s.valid := rfl
@[simp] theorem State.startTransaction_rxq (r : Request) (n : BitVec 18) : (s.startTransaction r n).rxq = s.rxq := rfl
@[simp] theorem State.startTransaction_chState (r : Request) (n : BitVec 18) : (s.startTransaction r n).chState = .drain := rfl
@[simp] theorem State.startTransaction_attempt (r : Request) (n : BitVec 18) : (s.startTransaction r n).attempt = 0 := rfl
@[simp] theorem State.startTransaction_expLen (r : Request) (n : BitVec 18) : (s.startTransaction r n).expLen = n := rfl
@[simp] theorem State.startTransaction_rx (r : Request) (n : BitVec 18) : (s.startTransaction r n).rx = [] := rfl
@[simp] theorem State.startTransaction_status (r : Request) (n : BitVec 18) : (s.startTransaction r n).status = s.status := rfl
@[simp] theorem State.startTransaction_resCrc (r : Request) (n : BitVec 18) : (s.startTransaction r n).resCrc = s.resCrc := rfl
@[simp] theorem State.startTransaction_resFlag (r : Request) (n : BitVec 18) : (s.startTransaction r n).resFlag = s.resFlag := rfl
@[simp] theorem State.startTransaction_resBytes (r : Request) (n : BitVec 18) : (s.startTransaction r n).resBytes = s.resBytes := rfl
@[simp] theorem State.startTransaction_resVals (r : Request) (n : BitVec 18) : (s.startTransaction r n).resVals = s.resVals := rfl
@[simp] theorem State.startTransaction_params (r : Request) (n : BitVec 18) : (s.startTransaction r n).params = s.params := rfl
@[simp] theorem State.startTransaction_req (r : Request) (n : BitVec 18) : (s.startTransaction r n).req = r := rfl
@[simp] theorem State.startTransaction_written (r : Request) (n : BitVec 18) : (s.startTransaction r n).written = 0 := rfl
@[simp] theorem State.startTransaction_inbox (r : Request) (n : BitVec 18) : (s.startTransaction r n).inbox = s.inbox := rfl
@[simp] theorem State.startTransaction_line (r : Request) (n : BitVec 18) : (s.startTransaction r n).line = s.line := rfl
@[simp] theorem State.startTransaction_draws (r : Request) (n : BitVec 18) : (s.startTransaction r n).draws = s.draws := rfl
@[simp] theorem State.startTransaction_sent (r : Request) (n : BitVec 18) : (s.startTransaction r n).sent = s.sent := rfl
@[simp] theorem State.startTransaction_diag (r : Request) (n : BitVec 18) : (s.startTransaction r n).diag = s.diag := rfl

/-! What of the request is written when an act falls into TX. -/

@[simp] theorem State.writeUpTo_crcRem (k : Nat) : (s.writeUpTo k).crcRem = s.crcRem := by unfold State.writeUpTo; split <;> rfl
@[simp] theorem State.writeUpTo_buf (k : Nat) : (s.writeUpTo k).buf = s.buf := by unfold State.writeUpTo; split <;> rfl
@[simp] theorem State.writeUpTo_hdrLen (k : Nat) : (s.writeUpTo k).hdrLen = s.hdrLen := by unfold State.writeUpTo; split <;> rfl
@[simp] theorem State.writeUpTo_hdrAddr (k : Nat) : (s.writeUpTo k).hdrAddr = s.hdrAddr := by unfold State.writeUpTo; split <;> rfl
@[simp] theorem State.writeUpTo_hdrCrc (k : Nat) : (s.writeUpTo k).hdrCrc = s.hdrCrc := by unfold State.writeUpTo; split <;> rfl
@[simp] theorem State.writeUpTo_ready (k : Nat) : (s.writeUpTo k).ready = s.ready := by unfold State.writeUpTo; split <;> rfl
@[simp] theorem State.writeUpTo_valid (k : Nat) : (s.writeUpTo k).valid = s.valid := by unfold State.writeUpTo; split <;> rfl
@[simp] theorem State.writeUpTo_rxq (k : Nat) : (s.writeUpTo k).rxq = s.rxq := by unfold State.writeUpTo; split <;> rfl
@[simp] theorem State.writeUpTo_chState (k : Nat) : (s.writeUpTo k).chState = s.chState := by unfold State.writeUpTo; split <;> rfl
@[simp] theorem State.writeUpTo_attempt (k : Nat) : (s.writeUpTo k).attempt = s.attempt := by unfold State.writeUpTo; split <;> rfl
@[simp] theorem State.writeUpTo_expLen (k : Nat) : (s.writeUpTo k).expLen = s.expLen := by unfold State.writeUpTo; split <;> rfl
@[simp] theorem State.writeUpTo_rx (k : Nat) : (s.writeUpTo k).rx = s.rx := by unfold State.writeUpTo; split <;> rfl
@[simp] theorem State.writeUpTo_status (k : Nat) : (s.writeUpTo k).status = s.status := by unfold State.writeUpTo; split <;> rfl
@[simp] theorem State.writeUpTo_resCrc (k : Nat) : (s.writeUpTo k).resCrc = s.resCrc := by unfold State.writeUpTo; split <;> rfl
@[simp] theorem State.writeUpTo_resFlag (k : Nat) : (s.writeUpTo k).resFlag = s.resFlag := by unfold State.writeUpTo; split <;> rfl
@[simp] theorem State.writeUpTo_resBytes (k : Nat) : (s.writeUpTo k).resBytes = s.resBytes := by unfold State.writeUpTo; split <;> rfl
@[simp] theorem State.writeUpTo_resVals (k : Nat) : (s.writeUpTo k).resVals = s.resVals := by unfold State.writeUpTo; split <;> rfl
@[simp] theorem State.writeUpTo_params (k : Nat) : (s.writeUpTo k).params = s.params := by unfold State.writeUpTo; split <;> rfl
@[simp] theorem State.writeUpTo_req (k : Nat) : (s.writeUpTo k).req = s.req := by unfold State.writeUpTo; split <;> rfl
@[simp] theorem State.writeUpTo_inbox (k : Nat) : (s.writeUpTo k).inbox = s.inbox := by unfold State.writeUpTo; split <;> rfl
@[simp] theorem State.writeUpTo_line (k : Nat) : (s.writeUpTo k).line = s.line := by unfold State.writeUpTo; split <;> rfl
@[simp] theorem State.writeUpTo_draws (k : Nat) : (s.writeUpTo k).draws = s.draws := by unfold State.writeUpTo; split <;> rfl
@[simp] theorem State.writeUpTo_diag (k : Nat) : (s.writeUpTo k).diag = s.diag := by unfold State.writeUpTo; split <;> rfl

theorem State.writeUpTo_tx (k : Nat) (h : s.chState = .tx) : s.writeUpTo k =
    { s with
      sent := s.sent ++ (s.req.bytes.take k).drop s.written
      written := max s.written (min k s.req.bytes.length) } := by simp [State.writeUpTo, h]

theorem State.writeUpTo_not_tx (k : Nat) (h : s.chState ≠ .tx) : s.writeUpTo k = s := by simp [State.writeUpTo, h]

@[simp] theorem State.writeUpTo_zero : s.writeUpTo 0 = s := by
  unfold State.writeUpTo
  split <;> simp

/-! The line's draw: scripted first, free after that. -/

@[simp] theorem State.popDraw_crcRem : s.popDraw.crcRem = s.crcRem := by unfold State.popDraw; split <;> rfl
@[simp] theorem State.popDraw_buf : s.popDraw.buf = s.buf := by unfold State.popDraw; split <;> rfl
@[simp] theorem State.popDraw_hdrLen : s.popDraw.hdrLen = s.hdrLen := by unfold State.popDraw; split <;> rfl
@[simp] theorem State.popDraw_hdrAddr : s.popDraw.hdrAddr = s.hdrAddr := by unfold State.popDraw; split <;> rfl
@[simp] theorem State.popDraw_hdrCrc : s.popDraw.hdrCrc = s.hdrCrc := by unfold State.popDraw; split <;> rfl
@[simp] theorem State.popDraw_ready : s.popDraw.ready = s.ready := by unfold State.popDraw; split <;> rfl
@[simp] theorem State.popDraw_valid : s.popDraw.valid = s.valid := by unfold State.popDraw; split <;> rfl
@[simp] theorem State.popDraw_rxq : s.popDraw.rxq = s.rxq := by unfold State.popDraw; split <;> rfl
@[simp] theorem State.popDraw_chState : s.popDraw.chState = s.chState := by unfold State.popDraw; split <;> rfl
@[simp] theorem State.popDraw_attempt : s.popDraw.attempt = s.attempt := by unfold State.popDraw; split <;> rfl
@[simp] theorem State.popDraw_expLen : s.popDraw.expLen = s.expLen := by unfold State.popDraw; split <;> rfl
@[simp] theorem State.popDraw_rx : s.popDraw.rx = s.rx := by unfold State.popDraw; split <;> rfl
@[simp] theorem State.popDraw_status : s.popDraw.status = s.status := by unfold State.popDraw; split <;> rfl
@[simp] theorem State.popDraw_resCrc : s.popDraw.resCrc = s.resCrc := by unfold State.popDraw; split <;> rfl
@[simp] theorem State.popDraw_resFlag : s.popDraw.resFlag = s.resFlag := by unfold State.popDraw; split <;> rfl
@[simp] theorem State.popDraw_resBytes : s.popDraw.resBytes = s.resBytes := by unfold State.popDraw; split <;> rfl
@[simp] theorem State.popDraw_resVals : s.popDraw.resVals = s.resVals := by unfold State.popDraw; split <;> rfl
@[simp] theorem State.popDraw_params : s.popDraw.params = s.params := by unfold State.popDraw; split <;> rfl
@[simp] theorem State.popDraw_req : s.popDraw.req = s.req := by unfold State.popDraw; split <;> rfl
@[simp] theorem State.popDraw_written : s.popDraw.written = s.written := by unfold State.popDraw; split <;> rfl
@[simp] theorem State.popDraw_inbox : s.popDraw.inbox = s.inbox := by unfold State.popDraw; split <;> rfl
@[simp] theorem State.popDraw_sent : s.popDraw.sent = s.sent := by unfold State.popDraw; split <;> rfl
@[simp] theorem State.popDraw_diag : s.popDraw.diag = s.diag := by unfold State.popDraw; split <;> rfl

theorem State.popDraw_cons (d : LineDraw) (ds : List LineDraw) (h : s.line = d :: ds) :
    s.popDraw = { s with line := ds } := by simp [State.popDraw, h]

theorem State.popDraw_nil (h : s.line = []) : s.popDraw = { s with draws := s.draws + 1 } := by simp [State.popDraw, h]

theorem State.nextDraw_cons (d : LineDraw) (ds : List LineDraw) (h : s.line = d :: ds) : s.nextDraw = d := by
  simp [State.nextDraw, h]

/-- The next draw depends on the line's script and the counter alone. -/
theorem State.nextDraw_congr (t : State) (h : s.line = t.line) (h' : s.draws = t.draws) : s.nextDraw = t.nextDraw := by
  simp [State.nextDraw, h, h']

end Sys2Proof.Machine
end

