-- ==== Sys2Proof/Laws/Channel.lean ====
section
/-! SUPPORT. What the sequencer of the Channel can do, said once: each transition, and a whole transaction that nothing
falls into (R131, R136 to R139). -/

namespace Sys2Proof.Machine

/-- Using a draw changes the script and the counter only. -/
theorem State.popDraw_eq (s : State) : s.popDraw = { s with line := s.popDraw.line, draws := s.popDraw.draws } := by
  cases hl : s.line with
  | nil => rw [State.popDraw_nil _ hl]
  | cons d ds => rw [State.popDraw_cons _ d ds hl]

/-- An accepted response leaves the operation idle, with these fields as they were. -/
theorem State.acceptResponse_frame (s : State) :
    s.acceptResponse.chState = .idle ∧ s.acceptResponse.attempt = s.attempt ∧ s.acceptResponse.rx = s.rx ∧
    s.acceptResponse.expLen = s.expLen ∧ s.acceptResponse.rxq = s.rxq ∧ s.acceptResponse.req = s.req ∧
    s.acceptResponse.line = s.line ∧ s.acceptResponse.draws = s.draws ∧ s.acceptResponse.sent = s.sent ∧
    s.acceptResponse.diag = s.diag ∧ s.acceptResponse.inbox = s.inbox ∧ s.acceptResponse.params = s.params := by
  unfold State.acceptResponse
  split
  · simp
  · unfold State.decodeRegisters
    split <;> simp

/-- The checksum check ends the operation (R131, R138). -/
@[simp] theorem State.checkStep_chState (s : State) : s.checkStep.chState = .idle := by
  unfold State.checkStep
  split
  · simp
  · dsimp only
    split
    · exact (State.acceptResponse_frame _).1
    · simp

/-- A candidate shorter than six bytes (R138, D15). -/
theorem State.checkStep_short (s : State) (h : s.rx.length < 6) :
    s.checkStep = (s.emit (.checksumMismatch none)).fail .checksumMismatch := by
  rw [State.checkStep, if_pos h]

/-- A candidate whose checksum differs (R138). -/
theorem State.checkStep_bad (s : State) (h : 6 ≤ s.rx.length) (hc : crc16 (checksumRegion s.rx) ≠ checksumField s.rx) :
    s.checkStep =
      (State.emit { s with crcRem := crc16 (checksumRegion s.rx) }
        (.checksumMismatch (some (crc16 (checksumRegion s.rx), checksumField s.rx)))).fail .checksumMismatch := by
  rw [State.checkStep, if_neg (show ¬ s.rx.length < 6 by omega)]
  dsimp only
  rw [if_neg hc]

/-- A candidate whose checksum is right (R138). -/
theorem State.checkStep_good (s : State) (h : 6 ≤ s.rx.length) (hc : crc16 (checksumRegion s.rx) = checksumField s.rx) :
    s.checkStep = State.acceptResponse { s with crcRem := crc16 (checksumRegion s.rx) } := by
  rw [State.checkStep, if_neg (show ¬ s.rx.length < 6 by omega)]
  dsimp only
  rw [if_pos hc]

/-- The four consequences of a read, by its class (R69, R137). -/
theorem State.classify_cases (s : State) :
    (readClass s.rx = .empty ∧ s.classify = (s.emit .noResponse).fail .noResponse) ∨
    (readClass s.rx = .otherLed ∧ s.classify = (s.emit (.framingError s.rx)).fail .framingError) ∨
    (readClass s.rx = .startLed ∧ s.classify = { s with chState := .check }) ∨
    (readClass s.rx = .fillerLed ∧ s.attempt < MAX_ATTEMPTS ∧ s.classify = s) ∨
    (readClass s.rx = .fillerLed ∧ ¬ s.attempt < MAX_ATTEMPTS ∧ s.classify = s.fail .resyncExhausted) := by
  unfold State.classify
  cases h : readClass s.rx with
  | empty => simp
  | otherLed => simp
  | startLed => simp
  | fillerLed =>
    by_cases ha : s.attempt < MAX_ATTEMPTS <;> simp [ha]

/-- The sequencer takes no act from the inbox. -/
@[simp] theorem State.classify_inbox (s : State) : s.classify.inbox = s.inbox := by
  rcases s.classify_cases with ⟨_, h⟩ | ⟨_, h⟩ | ⟨_, h⟩ | ⟨_, _, h⟩ | ⟨_, _, h⟩ <;> rw [h] <;> simp

@[simp] theorem State.readStep_inbox (s : State) : s.readStep.inbox = s.inbox := by
  unfold State.readStep; split <;> simp

@[simp] theorem State.checkStep_inbox (s : State) : s.checkStep.inbox = s.inbox := by
  unfold State.checkStep
  split
  · simp
  · dsimp only
    split
    · exact (State.acceptResponse_frame _).2.2.2.2.2.2.2.2.2.2.1
    · simp

@[simp] theorem State.seqStep_inbox (s : State) : s.seqStep.inbox = s.inbox := by
  unfold State.seqStep; split <;> simp

theorem State.quiet_congr (s t : State) (h : s.inbox = t.inbox) : s.quiet = t.quiet := by
  unfold State.quiet; rw [h]

@[simp] theorem State.seqStep_quiet (s : State) : s.seqStep.quiet = s.quiet :=
  State.quiet_congr _ _ s.seqStep_inbox

/-- Where no act falls into the transaction, the sequencer is not interrupted. -/
theorem State.not_interrupted (s : State) (hq : s.quiet = true) (hc : s.chState ≠ .idle) : s.interrupted = false := by
  unfold State.quiet at hq
  unfold State.interrupted
  split
  · rfl
  · rename_i h
    rw [h] at hq
    simp only [decide_eq_true_eq] at hq
    simp [hq, Ne.symm hc]

theorem State.runSequencer_idle (n : Nat) (s : State) (h : s.chState = .idle) : State.runSequencer n s = s := by
  cases n <;> simp [State.runSequencer, h]

/-- One transition at a time, while nothing falls in. -/
theorem State.runSequencer_succ (n : Nat) (s : State) (hq : s.quiet = true) (hc : s.chState ≠ .idle) :
    State.runSequencer (n + 1) s = State.runSequencer n s.seqStep := by
  rw [State.runSequencer, if_neg]
  simp [hc, s.not_interrupted hq hc]

/-- What becomes of the last read of a transaction: no further attempt (R137, R139). -/
def State.conclude (s : State) : State :=
  match readClass s.rx with
  | .empty => (s.emit .noResponse).fail .noResponse
  | .fillerLed => s.fail .resyncExhausted
  | .otherLed => (s.emit (.framingError s.rx)).fail .framingError
  | .startLed => State.checkStep { s with chState := .check }

@[simp] theorem State.conclude_chState (s : State) : s.conclude.chState = .idle := by
  unfold State.conclude; split <;> simp

/-- From a read on: the class decides whether the transaction ends or goes on to the check (R131). -/
theorem State.runSequencer_classify (n : Nat) (s : State) (hq : s.quiet = true)
    (h : readClass s.rx ≠ .fillerLed ∨ ¬ s.attempt < MAX_ATTEMPTS) :
    State.runSequencer (n + 1) s.classify = s.conclude := by
  rcases s.classify_cases with ⟨hc, e⟩ | ⟨hc, e⟩ | ⟨hc, e⟩ | ⟨hc, ha, e⟩ | ⟨hc, ha, e⟩
  · rw [e, State.runSequencer_idle _ _ rfl]; simp [State.conclude, hc]
  · rw [e, State.runSequencer_idle _ _ rfl]; simp [State.conclude, hc]
  · rw [e, State.runSequencer_succ _ _ (by exact hq) (by simp)]
    rw [show State.seqStep { s with chState := .check } = State.checkStep { s with chState := .check } from rfl,
      State.runSequencer_idle _ _ (State.checkStep_chState _)]
    simp [State.conclude, hc]
  · rcases h with h | h
    · exact absurd hc h
    · exact absurd ha h
  · rw [e, State.runSequencer_idle _ _ rfl]; simp [State.conclude, hc]

/-- Step 4 and 5 from RX with the whole budget: one read, or two when the first is filler-led (R136, R140). -/
theorem State.runSequencer_rx (n : Nat) (s : State) (hq : s.quiet = true) (hc : s.chState = .rx) (ha : s.attempt = 0) :
    State.runSequencer (n + 3) s =
      let v := s.popDraw.lineRead s.nextDraw
      if readClass v.rx = .fillerLed then (v.popDraw.lineRead v.nextDraw).conclude else v.conclude := by
  have hq1 : (s.popDraw.lineRead s.nextDraw).quiet = true := by
    rw [State.quiet_congr _ s (by simp)]; exact hq
  have e1 : s.seqStep = (s.popDraw.lineRead s.nextDraw).classify := by
    simp [State.seqStep, hc, State.readStep, ha, MAX_ATTEMPTS]
  rw [State.runSequencer_succ _ _ hq (by simp [hc]), e1]
  dsimp only
  by_cases hf : readClass (s.popDraw.lineRead s.nextDraw).rx = .fillerLed
  · rw [if_pos hf]
    generalize hv : s.popDraw.lineRead s.nextDraw = v at *
    have hva : v.attempt = 1 := by rw [← hv]; simp [ha]
    have hvc : v.chState = .rx := by rw [← hv]; simp [hc]
    have e2 : v.classify = v := by simp [State.classify, hf, hva, MAX_ATTEMPTS]
    have e3 : v.seqStep = (v.popDraw.lineRead v.nextDraw).classify := by
      simp [State.seqStep, hvc, State.readStep, hva, MAX_ATTEMPTS]
    rw [e2, State.runSequencer_succ _ _ hq1 (by simp [hvc]), e3]
    apply State.runSequencer_classify
    · rw [State.quiet_congr _ v (by simp)]; exact hq1
    · right; simp [hva, MAX_ATTEMPTS]
  · rw [if_neg hf]
    exact State.runSequencer_classify _ _ hq1 (.inl hf)

/-- The state in which the first read of a transaction is made: drained, request sent (R132, R134). -/
def State.requestSent (s : State) (r : Request) (n : BitVec 18) : State :=
  (s.startTransaction r n).drainStep.settleStep.transmitStep

/-- A transaction that nothing falls into (R130, R140). -/
theorem State.transact_quiet (s : State) (r : Request) (n : BitVec 18) (hq : s.quiet = true) :
    s.transact r n =
      let u := s.requestSent r n
      let v := u.popDraw.lineRead u.nextDraw
      if readClass v.rx = .fillerLed then (v.popDraw.lineRead v.nextDraw).conclude else v.conclude := by
  unfold State.transact maxTransitions
  rw [State.runSequencer_succ _ _ (by exact hq) (by simp), State.runSequencer_succ _ _ (by exact hq) (by simp [State.seqStep]),
    State.runSequencer_succ _ _ (by exact hq) (by simp [State.seqStep])]
  exact State.runSequencer_rx 0 _ (by exact hq) rfl rfl

/-- What had been written of the request when an act fell into TX makes no difference to the end of the transmission (R134). -/
theorem State.transmitStep_writeUpTo (s : State) (k : Nat) : (s.writeUpTo k).transmitStep = s.transmitStep := by
  unfold State.writeUpTo
  split
  · have key : ∀ (l : List Byte) (w : Nat), (l.take k).drop w ++ l.drop (max w (min k l.length)) = l.drop w := by
      intro l w
      rcases Nat.le_total k l.length with hk | hk
      · rw [Nat.min_eq_left hk]
        rcases Nat.le_total k w with h | h
        · rw [Nat.max_eq_left h, List.drop_eq_nil_of_le (by simp; omega), List.nil_append]
        · rw [Nat.max_eq_right h]
          conv_rhs => rw [← List.take_append_drop k l, List.drop_append_of_le_length (by simp; omega)]
      · rw [Nat.min_eq_right hk, List.take_of_length_le hk, List.drop_eq_nil_of_le (i := max w l.length) (by omega),
          List.append_nil]
    unfold State.transmitStep
    simp only [List.append_assoc]
    congr 2
    exact key s.req.bytes s.written
  · rfl

/-- Whether the next act falls into the present sequencer state. -/
theorem State.interrupted_cons (s : State) (e : Event) (acts : List Event) (h : s.inbox = e :: acts) :
    s.interrupted = decide (e.phase = s.chState) := by simp [State.interrupted, h]

/-- The sequencer stops where an act falls in. -/
theorem State.runSequencer_of_interrupted (n : Nat) (s : State) (h : s.interrupted = true) : State.runSequencer n s = s := by
  cases n <;> simp [State.runSequencer, h]

/-- It makes a transition where none does. -/
theorem State.runSequencer_of_not_interrupted (n : Nat) (s : State) (hc : s.chState ≠ .idle) (h : s.interrupted = false) :
    State.runSequencer (n + 1) s = State.runSequencer n s.seqStep := by
  rw [State.runSequencer, if_neg]
  simp [hc, h]

end Sys2Proof.Machine
end

