-- ==== Sys2Proof/Laws/Decode.lean ====
section
/-! SUPPORT. What the wire decoders accept, and what they answer on a frame (R60, R62, R63). -/

namespace Sys2Proof

open Machine

/-- What a wire format accepts is a wrapped region of two bytes or more. -/
theorem eq_wrap_of_checkWire (bs : List Byte) (h : checkWire bs = .ok ()) :
    6 ≤ bs.length ∧ bs = wrap (frameBody (byteAt bs 1) (byteAt bs 2) (payloadOf bs)) (byteAt bs (bs.length - 1)) := by
  unfold checkWire MIN_FRAME at h
  split at h
  · cases h
  · split at h
    · cases h
    · split at h
      · cases h
      · rename_i h6 h0 hc
        have h6 : 6 ≤ bs.length := by omega
        refine ⟨h6, ?_⟩
        have hw := eq_wrap_of_checksum bs (by omega) (not_not.1 h0) (not_not.1 hc)
        have hl : (checksumRegion bs).length = bs.length - 4 := by
          unfold checksumRegion; rw [slice_length]; omega
        obtain ⟨a, f, p, hb⟩ : ∃ a f p, checksumRegion bs = frameBody a f p := by
          match hr : checksumRegion bs with
          | [] => rw [hr] at hl; simp at hl; omega
          | [_] => rw [hr] at hl; simp at hl; omega
          | a :: f :: p => exact ⟨a, f, p, rfl⟩
        rw [hb] at hw
        have e1 : byteAt bs 1 = a := by rw [hw]; rfl
        have e2 : byteAt bs 2 = f := by rw [hw]; rfl
        have e3 : payloadOf bs = p := by rw [hw]; simp
        rw [e1, e2, e3]
        exact hw

/-- A wrapped region of two bytes or more passes what every wire format asks. -/
@[simp] theorem checkWire_wrap (a f : Byte) (p : List Byte) (last : Byte) :
    checkWire (wrap (frameBody a f p) last) = .ok () := by
  simp [checkWire, MIN_FRAME]

@[simp] theorem decodeFrame_wrap (a f : Byte) (p : List Byte) :
    decodeFrame (wrap (frameBody a f p) END) = .ok (.frame a f p) := by
  have h := byteAt_wrap_last (frameBody a f p) END
  unfold decodeFrame
  rw [checkWire_wrap]
  simp only [h]
  simp

/-- The request payload is two big-endian fields (R62). -/
theorem requestPayload_eq (start points : Word) : requestPayload start points =
    [start.extractLsb' 8 8, start.extractLsb' 0 8, points.extractLsb' 8 8, points.extractLsb' 0 8] := rfl

end Sys2Proof
end

