-- ==== Sys2Proof/Laws/Frame.lean ====
section
/-! SUPPORT. What the sequencer of the Channel never touches, for each transition and for a whole run of it, in every state
(R26, R32, R143). -/

namespace Sys2Proof.Machine

/-- `t` has the decoder, the checksum results, the parameters, the operands in progress and the inbox of `s`. -/
structure State.SameDecoder (s t : State) : Prop where
  buf : t.buf = s.buf
  hdrLen : t.hdrLen = s.hdrLen
  hdrAddr : t.hdrAddr = s.hdrAddr
  hdrCrc : t.hdrCrc = s.hdrCrc
  ready : t.ready = s.ready
  valid : t.valid = s.valid
  resCrc : t.resCrc = s.resCrc
  resFlag : t.resFlag = s.resFlag
  params : t.params = s.params
  inbox : t.inbox = s.inbox
  req : t.req = s.req

theorem State.SameDecoder.refl (s : State) : s.SameDecoder s := by constructor <;> simp

theorem State.SameDecoder.trans {s t u : State} (h : s.SameDecoder t) (k : t.SameDecoder u) : s.SameDecoder u where
  buf := k.buf.trans h.buf
  hdrLen := k.hdrLen.trans h.hdrLen
  hdrAddr := k.hdrAddr.trans h.hdrAddr
  hdrCrc := k.hdrCrc.trans h.hdrCrc
  ready := k.ready.trans h.ready
  valid := k.valid.trans h.valid
  resCrc := k.resCrc.trans h.resCrc
  resFlag := k.resFlag.trans h.resFlag
  params := k.params.trans h.params
  inbox := k.inbox.trans h.inbox
  req := k.req.trans h.req

theorem State.sameDecoder_fail (s : State) (x : Status) : s.SameDecoder (s.fail x) := by
  constructor <;> simp [State.fail]

theorem State.sameDecoder_emit (s : State) (d : Diag) : s.SameDecoder (s.emit d) := by constructor <;> simp [State.emit]

theorem State.sameDecoder_crcRem (s : State) (c : Word) : s.SameDecoder { s with crcRem := c } := by constructor <;> simp

theorem State.sameDecoder_decodeRegisters (s : State) (n : Word) : s.SameDecoder (s.decodeRegisters n) := by
  unfold State.decodeRegisters
  split
  · exact s.sameDecoder_fail _
  · constructor <;> simp

theorem State.sameDecoder_acceptResponse (s : State) : s.SameDecoder s.acceptResponse := by
  unfold State.acceptResponse
  split
  · constructor <;> simp
  · exact s.sameDecoder_decodeRegisters _

theorem State.sameDecoder_checkStep (s : State) : s.SameDecoder s.checkStep := by
  unfold State.checkStep
  split
  · exact (s.sameDecoder_emit _).trans (State.sameDecoder_fail _ _)
  · dsimp only
    split
    · exact (s.sameDecoder_crcRem _).trans (State.sameDecoder_acceptResponse _)
    · exact ((s.sameDecoder_crcRem _).trans (State.sameDecoder_emit _ _)).trans (State.sameDecoder_fail _ _)

theorem State.sameDecoder_classify (s : State) : s.SameDecoder s.classify := by
  rcases s.classify_cases with ⟨_, h⟩ | ⟨_, h⟩ | ⟨_, h⟩ | ⟨_, _, h⟩ | ⟨_, _, h⟩ <;> rw [h]
  · exact (s.sameDecoder_emit _).trans (State.sameDecoder_fail _ _)
  · exact (s.sameDecoder_emit _).trans (State.sameDecoder_fail _ _)
  · constructor <;> simp
  · exact .refl s
  · exact s.sameDecoder_fail _

theorem State.sameDecoder_readStep (s : State) : s.SameDecoder s.readStep := by
  unfold State.readStep
  split
  · refine State.SameDecoder.trans ?_ (State.sameDecoder_classify _)
    constructor <;> simp
  · exact s.sameDecoder_fail _

/-- One transition of the sequencer. -/
theorem State.sameDecoder_seqStep (s : State) : s.SameDecoder s.seqStep := by
  unfold State.seqStep
  split
  · exact .refl s
  · constructor <;> simp
  · constructor <;> simp
  · constructor <;> simp
  · exact s.sameDecoder_readStep
  · exact s.sameDecoder_checkStep

/-- The sequencer, run or interrupted. -/
theorem State.sameDecoder_runSequencer (n : Nat) (s : State) : s.SameDecoder (State.runSequencer n s) := by
  induction n generalizing s with
  | zero => exact .refl s
  | succ n ih =>
    rw [State.runSequencer]
    split
    · exact .refl s
    · exact s.sameDecoder_seqStep.trans (ih _)

/-- How a transaction stands in `t`, which comes from `s`: it goes on with the results as they were; it has ended with OK and
its response; or it has failed and both results are empty (R131, R161, R166). -/
def State.StandsAs (s t : State) : Prop :=
  (t.chState ≠ .idle ∧ t.status = s.status ∧ t.resBytes = s.resBytes ∧ t.resVals = s.resVals) ∨
  (t.chState = .idle ∧ t.status = .ok ∧ t.resBytes = t.rx ∧ (s.req.points = none → t.resVals = s.resVals)) ∨
  (t.chState = .idle ∧ t.status ≠ .ok ∧ t.status ≠ .refused ∧ t.resBytes = [] ∧ t.resVals = [])

/-- A failure, after whatever was recorded. -/
theorem State.standsAs_fail (s u : State) (x : Status) (h : x ≠ .ok) (h' : x ≠ .refused) : s.StandsAs (u.fail x) :=
  .inr (.inr ⟨rfl, h, h', rfl, rfl⟩)

theorem State.standsAs_acceptResponse (s : State) : s.StandsAs s.acceptResponse := by
  unfold State.acceptResponse
  split
  · exact .inr (.inl ⟨rfl, rfl, rfl, fun _ => rfl⟩)
  · rename_i n hn
    unfold State.decodeRegisters
    split
    · exact s.standsAs_fail s _ (by decide) (by decide)
    · exact .inr (.inl ⟨rfl, rfl, rfl, fun h => by rw [h] at hn; cases hn⟩)

theorem State.standsAs_checkStep (s : State) : s.StandsAs s.checkStep := by
  unfold State.checkStep
  split
  · exact s.standsAs_fail _ _ (by decide) (by decide)
  · dsimp only
    split
    · exact State.standsAs_acceptResponse { s with crcRem := crc16 (checksumRegion s.rx) }
    · exact s.standsAs_fail _ _ (by decide) (by decide)

theorem State.standsAs_readStep (s : State) (h : s.chState = .rx) : s.StandsAs s.readStep := by
  unfold State.readStep
  split
  · rcases State.classify_cases (s.popDraw.lineRead s.nextDraw) with ⟨_, e⟩ | ⟨_, e⟩ | ⟨_, e⟩ | ⟨_, _, e⟩ | ⟨_, _, e⟩ <;> rw [e]
    · exact s.standsAs_fail _ _ (by decide) (by decide)
    · exact s.standsAs_fail _ _ (by decide) (by decide)
    · exact .inl ⟨by simp, by simp, by simp, by simp⟩
    · exact .inl ⟨by simp [h], by simp, by simp, by simp⟩
    · exact s.standsAs_fail _ _ (by decide) (by decide)
  · exact s.standsAs_fail _ _ (by decide) (by decide)

/-- One transition of a transaction in progress. -/
theorem State.standsAs_seqStep (s : State) (h : s.chState ≠ .idle) : s.StandsAs s.seqStep := by
  unfold State.seqStep
  split
  · rename_i hi
    exact absurd hi h
  · exact .inl ⟨by simp, rfl, rfl, rfl⟩
  · exact .inl ⟨by simp, rfl, rfl, rfl⟩
  · exact .inl ⟨by simp, rfl, rfl, rfl⟩
  · exact s.standsAs_readStep (by assumption)
  · exact s.standsAs_checkStep

/-- A transaction in progress, run to its end or to an act that falls into it. -/
theorem State.standsAs_runSequencer (n : Nat) (s : State) (h : s.chState ≠ .idle) :
    s.StandsAs (State.runSequencer n s) := by
  induction n generalizing s with
  | zero => exact .inl ⟨h, rfl, rfl, rfl⟩
  | succ n ih =>
    rw [State.runSequencer]
    split
    · exact .inl ⟨h, rfl, rfl, rfl⟩
    · by_cases hi : s.seqStep.chState = .idle
      · rw [State.runSequencer_idle _ _ hi]
        exact s.standsAs_seqStep h
      · rcases s.standsAs_seqStep h with ⟨_, h1, h2, h3⟩ | ⟨hc, _⟩ | ⟨hc, _⟩
        · have := ih s.seqStep hi
          unfold State.StandsAs at this ⊢
          rw [h1, h2, h3, s.sameDecoder_seqStep.req] at this
          exact this
        · exact absurd hc hi
        · exact absurd hc hi

end Sys2Proof.Machine
end

