-- ==== Sys2Proof/Laws/PerInstr.lean ====
section
/-! SUPPORT. Per instruction: which op code its command carries, or that it is no command (R65, R66, R70). -/

namespace Sys2Proof.Laws.CommandOpCode

/-- Where an instruction is encoded as a command, its op code is the one of R66 for an operation, and none of them for a
well-formed any_other_op (R70). -/
def Statement (i : Instr) : Prop :=
  ∀ (p : Params) (c : Command), i.wellFormed p = true → encode i = .command c →
    (c.op ∈ opCodes ↔ ∀ op, i ≠ .anyOtherOp op)

theorem crcCompute (data : List Byte) : Statement (.crcCompute data) := by
  intro p c _ h
  simp only [encode, Encoding.command.injEq] at h
  subst h
  simp [opCodes]

theorem crcValidate (data : List Byte) (x : Word) : Statement (.crcValidate data x) := by
  intro p c _ h
  simp only [encode, Encoding.command.injEq] at h
  subst h
  simp [opCodes]

theorem frmEncode (a : Byte) (f : Byte) (p : List Byte) : Statement (.frmEncode a f p) := by
  intro p c _ h
  simp only [encode, Encoding.command.injEq] at h
  subst h
  simp [opCodes]

theorem frmFeed (data : List Byte) : Statement (.frmFeed data) := by
  intro p c _ h
  simp only [encode, Encoding.command.injEq] at h
  subst h
  simp [opCodes]

theorem frmTryDecode : Statement (.frmTryDecode) := by
  intro p c _ h
  simp only [encode, Encoding.command.injEq] at h
  subst h
  simp [opCodes]

theorem frmPayload : Statement (.frmPayload) := by
  intro p c _ h
  simp only [encode, Encoding.command.injEq] at h
  subst h
  simp [opCodes]

theorem frmAdvance : Statement (.frmAdvance) := by
  intro p c _ h
  simp only [encode, Encoding.command.injEq] at h
  subst h
  simp [opCodes]

theorem frmReset : Statement (.frmReset) := by
  intro p c _ h
  simp only [encode, Encoding.command.injEq] at h
  subst h
  simp [opCodes]

theorem chTransact (a : Byte) (f : Byte) (p : List Byte) (n : BitVec 18) : Statement (.chTransact a f p n) := by
  intro p c _ h
  simp only [encode, Encoding.command.injEq] at h
  subst h
  simp [opCodes]

theorem regRead (a : Byte) (start : Word) (n : Word) : Statement (.regRead a start n) := by
  intro p c _ h
  simp only [encode, Encoding.command.injEq] at h
  subst h
  simp [opCodes]

theorem anyOtherOp (op : Byte) : Statement (.anyOtherOp op) := by
  intro p c hw h
  simp only [encode, Encoding.command.injEq] at h
  subst h
  simpa [Instr.wellFormed] using hw

theorem frame (a : Byte) (f : Byte) (p : List Byte) : Statement (.frame a f p) := by
  intro p c _ h
  cases h

theorem requestReadHolding (a : Byte) (start : Word) (n : Word) : Statement (.requestReadHolding a start n) := by
  intro p c _ h
  cases h

theorem responseReadHolding (a : Byte) (f : Byte) (bc : Option Byte) (regs : List Word) (last : Byte) : Statement (.responseReadHolding a f bc regs last) := by
  intro p c _ h
  cases h

theorem readEmpty : Statement (.readEmpty) := by
  intro p c _ h
  cases h

theorem readFillerLed (rest : List Byte) : Statement (.readFillerLed rest) := by
  intro p c _ h
  cases h

theorem readOtherLed (b : Byte) (rest : List Byte) : Statement (.readOtherLed b rest) := by
  intro p c _ h
  cases h

theorem readStartLed (rest : List Byte) : Statement (.readStartLed rest) := by
  intro p c _ h
  cases h

end Sys2Proof.Laws.CommandOpCode
end

