-- ==== Sys2Proof/Laws/Step.lean ====
section
/-! SUPPORT. What a step can be: an act taken from the inbox, or the sequencer going on (logs 2, 12). -/

namespace Sys2Proof.Machine

/-- The next act is taken when no operation is in progress or when it falls into the present sequencer state; in TX the bytes of
the request that precede it have been written (log 14). -/
theorem step_of_taken (s : State) (e : Event) (acts : List Event) (hi : s.inbox = e :: acts)
    (h : s.chState = .idle ∨ e.phase = s.chState) :
    step s = perform e.act (State.writeUpTo { s with inbox := acts } e.written) := by
  unfold step nextStep
  rw [hi]
  dsimp only
  rw [if_pos]
  rcases h with h | h <;> simp [State.takes, h]

/-- With a transaction in progress and nothing falling into it, the sequencer goes on. -/
theorem step_of_quiet (s : State) (h : s.chState ≠ .idle) (hq : s.quiet = true) :
    step s = .next (State.runSequencer maxTransitions s) := by
  unfold step nextStep
  unfold State.quiet at hq
  split
  · rfl
  · rename_i hin
    rw [hin] at hq
    simp only [decide_eq_true_eq] at hq
    rw [if_neg]
    simp [State.takes, h, hq, Ne.symm h]

end Sys2Proof.Machine
end

