-- ==== Sys2Proof/Tests/Slice0.lean ====
section
/-! SUPPORT. Small tests: expected values come from spec/ (the case of 95_test_vectors.md is named), and every statement with
hypotheses has a witness that meets them. -/

namespace Sys2Proof.Tests

open Sys2Proof.Machine Sys2Proof.Spec

/-- The state an instruction leaves. -/
def after (i : Instr) (s : State) : State :=
  match exec i s with
  | .next t => t
  | _ => s

/-- The state a step leaves. -/
def stepped (s : State) : State :=
  match step s with
  | .next t => t
  | _ => s

/-- Reset, with the results of the reads to come fixed. -/
def listening (reads : List (List Byte)) : State :=
  { State.reset with line := reads.map fun r => { arrive := r, take := r.length } }

/-- Reset, with these bytes in the decoder. -/
def holding (bs : List Byte) : State := { State.reset with buf := bs }

/-- The source's frame, S4. -/
def sourceFrame : List Byte := [0x0A, 0x01, 0x03, 0x02, 0x00, 0x0D, 0x79, 0x81, 0x0D]

/-- The response of T1: device 3, one register 0x0123. -/
def response : List Byte := [0x0A, 0x03, 0x03, 0x02, 0x01, 0x23, 0x81, 0xCD, 0x0D]

/-- A transaction that waits for its first read of up to 9 bytes. -/
def waiting : State := { State.reset with chState := .rx, expLen := 9 }

/-! ## WellFormed: an ill-formed term for each check -/

theorem test_wf_anyOtherOp_refuses_assigned : Instr.wellFormed Params.default (.anyOtherOp 0x15) = false := by decide
theorem test_wf_readOther_refuses_filler : Instr.wellFormed Params.default (.readOtherLed 0x00 []) = false := by decide
theorem test_wf_readOther_refuses_start : Instr.wellFormed Params.default (.readOtherLed 0x0A []) = false := by decide
theorem test_wf_response_refuses_missing_count :
    Instr.wellFormed Params.default (.responseReadHolding 3 3 none [0x0123] 0x0D) = false := by decide
theorem test_wf_response_refuses_extra_count :
    Instr.wellFormed { Params.default with byteCountByte := false } (.responseReadHolding 3 3 (some 2) [0x0123] 0x0D) =
      false := by decide
theorem test_wf_response_refuses_no_register :
    Instr.wellFormed Params.default (.responseReadHolding 3 3 (some 0) [] 0x0D) = false := by decide
theorem test_wf_response_refuses_too_many (regs : List Word) (h : regs.length = 65536) :
    Instr.wellFormed Params.default (.responseReadHolding 3 3 (some 0) regs 0x0D) = false := by
  simp [Instr.wellFormed, h]

/-! ## Decode: words written out from the tables of 30_encoding.md -/

/-- R66: the ten op codes. -/
theorem test_decode_commands :
    decodeCommand { op := 0b00000001, data := [0xFF, 0x01] } = .crcCompute [0xFF, 0x01] ∧
    decodeCommand { op := 0b00000010, data := [0xFF], expected := 0x00FF } = .crcValidate [0xFF] 0x00FF ∧
    decodeCommand { op := 0b00010000, address := 3, functionCode := 4, data := [0x55] } = .frmEncode 3 4 [0x55] ∧
    decodeCommand { op := 0b00010001, data := [0x0A] } = .frmFeed [0x0A] ∧
    decodeCommand { op := 0b00010010 } = .frmTryDecode ∧ decodeCommand { op := 0b00010011 } = .frmPayload ∧
    decodeCommand { op := 0b00010100 } = .frmAdvance ∧ decodeCommand { op := 0b00010101 } = .frmReset ∧
    decodeCommand { op := 0b00100000, address := 3, functionCode := 4, data := [0x55], expLen := 9 } =
      .chTransact 3 4 [0x55] 9 ∧
    decodeCommand { op := 0b00100001, address := 3, start := 0xD9, points := 1 } = .regRead 3 0xD9 1 := by decide

/-- R70: codes next to the assigned ones are refused by name. -/
theorem test_decode_other_ops : ∀ op ∈ [0x00, 0x03, 0x0F, 0x16, 0x1F, 0x22, 0xFF],
    decodeTableWord 8 op = some (.anyOtherOp (BitVec.ofNat 8 op)) := by decide

/-- R60: S2's frame; a wrong last byte, a flipped checksum bit and a five-byte sequence are rejected by name. -/
theorem test_decode_frame :
    decodeFrame [0x0A, 0xFF, 0x01, 0x81, 0x80, 0x0D] = .ok (.frame 0xFF 0x01 []) ∧
    decodeFrame [0x0A, 0xFF, 0x01, 0x81, 0x80, 0x0C] = .error .badEnd ∧
    decodeFrame [0x0A, 0xFF, 0x01, 0x80, 0x80, 0x0D] = .error .badChecksum ∧
    decodeFrame [0x0B, 0xFF, 0x01, 0x81, 0x80, 0x0D] = .error .badStart ∧
    decodeFrame [0x0A, 0x01, 0x7E, 0x80, 0x0D] = .error .tooShort := by decide +kernel

/-- R62: the request of T1 (95 section 3), also as a table word, byte 0 the least significant; a frame of another length or
another function code is not one. -/
theorem test_decode_request :
    decodeRequest [0x0A, 0x03, 0x03, 0x00, 0xD9, 0x00, 0x01, 0x54, 0x13, 0x0D] = .ok (.requestReadHolding 3 0xD9 1) ∧
    decodeTableWord 80 0x0D13540100D90003030A = some (.requestReadHolding 3 0xD9 1) ∧
    decodeRequest sourceFrame = .error .badLength ∧
    decodeRequest (encodeFrame 3 4 [0x00, 0xD9, 0x00, 0x01]) = .error .badFunctionCode := by decide +kernel

/-- R63: T1's response; with RSP_HDR_BYTES = 0 T14's; the last byte is not compared (R141, T11); half a register is no
register. -/
theorem test_decode_response :
    decodeResponse Params.default response = .ok (.responseReadHolding 3 3 (some 2) [0x0123] 0x0D) ∧
    decodeResponse { Params.default with byteCountByte := false } [0x0A, 0x03, 0x03, 0x01, 0x23, 0xB0, 0x29, 0x0D] =
      .ok (.responseReadHolding 3 3 none [0x0123] 0x0D) ∧
    decodeResponse Params.default [0x0A, 0x03, 0x03, 0x02, 0x01, 0x23, 0x81, 0xCD, 0x99] =
      .ok (.responseReadHolding 3 3 (some 2) [0x0123] 0x99) ∧
    decodeResponse Params.default [0x0A, 0x03, 0x03, 0x01, 0x23, 0xB0, 0x29, 0x0D] = .error .badLength := by decide +kernel

/-- R69: the four classes. -/
theorem test_decode_reads :
    decodeRead [] = .readEmpty ∧ decodeRead [0x00, 0x0A] = .readFillerLed [0x0A] ∧
    decodeRead [0x55, 0x0A] = .readOtherLed 0x55 [0x0A] ∧ decodeRead [0x0A, 0x00] = .readStartLed [0x00] := by decide

/-! ## Checksum unit and encoder -/

/-- Section 2.1: `[]`, `00`, S4's region and the request body. -/
theorem test_crc16_values :
    crc16 [] = 0xFFFF ∧ crc16 [0x00] = 0x40BF ∧ crc16 [0x01, 0x03, 0x02, 0x00, 0x0D] = 0x8179 ∧
    crc16 [0x03, 0x03, 0x00, 0xD9, 0x00, 0x01] = 0x1354 := by decide +kernel

/-- S1. -/
theorem test_crcCompute_s1 :
    (after (.crcCompute [0xFF, 0x01]) State.reset).resCrc = 0x8081 ∧
    (after (.crcCompute [0xFF, 0x01]) State.reset).resBytes = [0x81, 0x80] := by decide +kernel

/-- R94's example: 0x8179 matches, the swapped bytes do not; the status is OK in both cases. -/
theorem test_crcValidate_example :
    (after (.crcValidate [0x01, 0x03, 0x02, 0x00, 0x0D] 0x8179) State.reset).resFlag = true ∧
    (after (.crcValidate [0x01, 0x03, 0x02, 0x00, 0x0D] 0x7981) State.reset).resFlag = false ∧
    (after (.crcValidate [0x01, 0x03, 0x02, 0x00, 0x0D] 0x7981) State.reset).status = .ok := by decide +kernel

/-- S2, and a payload of delimiters (section 3). -/
theorem test_frmEncode_s2 :
    (after (.frmEncode 0xFF 0x01 []) State.reset).resBytes = [0x0A, 0xFF, 0x01, 0x81, 0x80, 0x0D] ∧
    (after (.frmEncode 0x0A 0x0D [0x0A, 0x0D]) State.reset).resBytes =
      [0x0A, 0x0A, 0x0D, 0x0A, 0x0D, 0x55, 0x5A, 0x0D] := by decide +kernel

/-! ## Decoder -/

/-- F25: refused whole beyond BUF_CAP = 8, and accepted at exactly the capacity. -/
theorem test_frmFeed_capacity :
    let s : State := { holding [0x0A, 0x01, 0x03, 0x02, 0x00, 0x0D] with params := { Params.default with bufCap := some 8 } }
    after (.frmFeed [0x79, 0x81, 0x0D]) s = { s with status := .refused } ∧
    (after (.frmFeed [0x79, 0x81]) s).buf = [0x0A, 0x01, 0x03, 0x02, 0x00, 0x0D, 0x79, 0x81] := by decide +kernel

/-- F6: noise skipped, S4's frame found by its last END. -/
theorem test_frmTryDecode_noise :
    let t := after .frmTryDecode (holding ([0x00, 0xFF, 0x0D, 0x55] ++ sourceFrame))
    t.buf = sourceFrame ∧ t.hdrLen = 9 ∧ t.hdrAddr = 0x01 ∧ t.hdrCrc = 0x8179 ∧ t.ready = true ∧ t.valid = true ∧
    t.resCrc = 0x8179 := by decide +kernel

/-- F12: a span of 4 with the checksum of the empty region is ready and never valid; F4: a span of 2 is not ready. -/
theorem test_frmTryDecode_short :
    let t := after .frmTryDecode (holding [0x0A, 0xFF, 0xFF, 0x0D])
    t.hdrLen = 4 ∧ t.hdrAddr = 0xFF ∧ t.hdrCrc = 0xFFFF ∧ t.ready = true ∧ t.valid = false ∧
    (after .frmTryDecode (holding [0x0A, 0x0D])).ready = false := by decide +kernel

/-- F2: three payload bytes; F22: refused with nothing decoded. -/
theorem test_frmPayload :
    (after .frmPayload (after .frmTryDecode (holding sourceFrame))).resBytes = [0x02, 0x00, 0x0D] ∧
    after .frmPayload State.reset = { State.reset with status := .refused } := by decide +kernel

/-- F19: the bytes behind the span stay; F23: nothing latched, nothing dropped. -/
theorem test_frmAdvance :
    (after .frmAdvance (after .frmTryDecode (holding (sourceFrame ++ [0x11, 0x22])))).buf = [0x11, 0x22] ∧
    after .frmAdvance (holding [0x11, 0x22]) = holding [0x11, 0x22] := by decide +kernel

/-- F24. -/
theorem test_frmReset : after .frmReset (after .frmTryDecode (holding [0x0A, 0x0D, 0x55])) = State.reset := by
  decide +kernel

/-! ## Channel and register read -/

/-- T20. -/
theorem test_chTransact_t20 :
    let t := after (.chTransact 0xFF 0x01 [] 6) (listening [[0x0A, 0xFF, 0x01, 0x81, 0x80, 0x0D]])
    t.status = .ok ∧ t.attempt = 1 ∧ t.resBytes = [0x0A, 0xFF, 0x01, 0x81, 0x80, 0x0D] ∧ t.sent = t.resBytes ∧
    t.diag = [] := by decide +kernel

/-- T16's line for CH.TRANSACT: at most exp_len bytes are taken, the others stay queued (R133, R142). -/
theorem test_chTransact_t16 :
    let t := after (.chTransact 3 3 [0x00, 0xD9, 0x00, 0x01] 9)
      (listening [[0x0A, 0x03, 0x03, 0x04, 0x00, 0x01, 0x86, 0xA0, 0xEA, 0x2B, 0x0D]])
    t.status = .checksumMismatch ∧ t.diag = [.checksumMismatch (some (0x45E0, 0xA086))] ∧ t.rxq = [0x2B, 0x0D] ∧
    t.resBytes = [] := by decide +kernel

/-- R161: a failed CH.TRANSACT empties `res_vals` too. -/
theorem test_chTransact_failure_empties_registers :
    (after (.chTransact 3 3 [] 9) { listening [[]] with resVals := [0x0123] }).resVals = [] := by decide +kernel

/-- T2: stale bytes discarded, a filler-led read retried, one register. -/
theorem test_regRead_t2 :
    let t := after (.regRead 3 0xD9 1) { listening [[0x00, 0x00, 0x00], response] with rxq := [0x55, 0x0D] }
    t.status = .ok ∧ t.attempt = 2 ∧ t.resVals = [0x0123] ∧ t.resBytes = response ∧ t.diag = [.discarded [0x55, 0x0D]] ∧
    t.sent = [0x0A, 0x03, 0x03, 0x00, 0xD9, 0x00, 0x01, 0x54, 0x13, 0x0D] ∧ t.expLen = 9 := by decide +kernel

/-- T10: a correct response of the wrong length leaves both results empty. -/
theorem test_regRead_t10 :
    let t := after (.regRead 15 0xC4 2) (listening [[0x0A, 0x0F, 0x03, 0x02, 0x00, 0x01, 0x10, 0x45, 0x0D]])
    t.status = .lengthMismatch ∧ t.resVals = [] ∧ t.resBytes = [] ∧ t.expLen = 11 := by decide +kernel

/-- R70 (a). -/
theorem test_anyOtherOp : after (.anyOtherOp 0x30) State.reset = { State.reset with status := .refused } := by decide +kernel

/-! ## The line -/

/-- R52: arrival order; a bounded queue keeps the first bytes (log 11). -/
theorem test_frame_arrives :
    (after (.frame 0xFF 0x01 []) { State.reset with rxq := [0x55] }).rxq = [0x55, 0x0A, 0xFF, 0x01, 0x81, 0x80, 0x0D] ∧
    (after (.frame 0xFF 0x01 []) { State.reset with params := { Params.default with rxqCap := some 2 } }).rxq =
      [0x0A, 0xFF] := by decide +kernel

theorem test_request_arrives :
    (after (.requestReadHolding 3 0xD9 1) State.reset).rxq =
      [0x0A, 0x03, 0x03, 0x00, 0xD9, 0x00, 0x01, 0x54, 0x13, 0x0D] := by decide +kernel

theorem test_response_arrives :
    (after (.responseReadHolding 3 3 (some 2) [0x0123] 0x0D) State.reset).rxq = response := by decide +kernel

/-- R137 (a), also on the second attempt (T7). -/
theorem test_readEmpty :
    (after .readEmpty waiting).status = .noResponse ∧ (after .readEmpty waiting).chState = .idle ∧
    (after .readEmpty (after (.readFillerLed [0x00]) waiting)).attempt = 2 := by decide +kernel

/-- R137 (b): retried once, then RESYNC_EXHAUSTED without an event (T6). -/
theorem test_readFillerLed :
    (after (.readFillerLed []) waiting).chState = .rx ∧
    (after (.readFillerLed [0x0A]) (after (.readFillerLed []) waiting)).status = .resyncExhausted ∧
    (after (.readFillerLed [0x0A]) (after (.readFillerLed []) waiting)).diag = [] := by decide +kernel

/-- R137 (c): no retry though one attempt remains (T4). -/
theorem test_readOtherLed :
    (after (.readOtherLed 0x55 [0x0A]) waiting).status = .framingError ∧
    (after (.readOtherLed 0x55 [0x0A]) waiting).diag = [.framingError [0x55, 0x0A]] ∧
    (after (.readOtherLed 0x55 [0x0A]) waiting).chState = .idle := by decide +kernel

/-- R137 (d), and the check that follows ends the transaction (T8: shorter than six bytes). -/
theorem test_readStartLed :
    (after (.readStartLed [0x03, 0x03]) waiting).chState = .check ∧
    (stepped (after (.readStartLed [0x03, 0x03]) waiting)).status = .checksumMismatch := by decide +kernel

/-! ## The step -/

/-- The word of FRM.ADVANCE runs as the first instruction after reset; the bytes of a request arrive. -/
theorem test_step_runs_placed_word :
    stepped (State.reset.withFetchWord 8 0x14) = State.reset ∧
    (stepped (State.reset.withFetchWord 80 0x0D13540100D90003030A)).rxq =
      [0x0A, 0x03, 0x03, 0x00, 0xD9, 0x00, 0x01, 0x54, 0x13, 0x0D] := by decide +kernel

/-- An operation issued while REG.READ waits in RX is refused and does no harm (R49, D23). -/
theorem test_step_overlap :
    let s := { State.reset with
      inbox := [{ phase := .idle, act := .op { op := 0x21, address := 3, start := 0xD9, points := 1 } },
        { phase := .rx, act := .op { op := 0x12 } }, { phase := .rx, act := .read response }] }
    (stepped s).chState = .rx ∧ (stepped (stepped s)).status = .refused ∧
    (stepped (stepped (stepped (stepped s)))).resVals = [0x0123] := by decide +kernel

/-- R180: a reset after three bytes of the request leaves exactly them sent. -/
theorem test_step_reset_mid_request :
    let s := { State.reset with
      inbox := [{ phase := .idle, act := .op { op := 0x21, address := 3, start := 0xD9, points := 1 } },
        { phase := .tx, act := .reset, written := 3 }] }
    (stepped s).chState = .tx ∧ (stepped (stepped s)).sent = [0x0A, 0x03, 0x03] ∧ (stepped (stepped s)).chState = .idle := by
  decide +kernel

/-- R191: a late intact response of device 13 that arrives during the transmission is read as the answer of device 3. -/
theorem test_step_late_bytes :
    let s := { State.reset with
      line := [{ arrive := [], take := 9 }]
      inbox := [{ phase := .idle, act := .op { op := 0x21, address := 3, start := 0xD9, points := 1 } },
        { phase := .tx, act := .line [0x0A, 0x0D, 0x03, 0x02, 0x05, 0xDC, 0xAA, 0x8C, 0x0D], written := 4 }] }
    let t := stepped (stepped (stepped s))
    t.status = .ok ∧ t.resVals = [0x05DC] ∧ t.sent = [0x0A, 0x03, 0x03, 0x00, 0xD9, 0x00, 0x01, 0x54, 0x13, 0x0D] := by
  decide +kernel

/-! ## Witnesses: a state and operands that meet all hypotheses of a statement together -/

theorem test_witness_DecodeEncodeRoundTrip : ∀ i ∈ [Instr.chTransact 3 3 [0xD9] 9, .anyOtherOp 0x0A, .frame 1 2 [],
    .requestReadHolding 3 0xD9 1, .responseReadHolding 3 3 (some 2) [0x0123] 0x99, .readEmpty, .readFillerLed [],
    .readOtherLed 0x55 [], .readStartLed []], i.wellFormed Params.default = true := by decide

theorem test_witness_DecodedIsWellFormed :
    decode Params.default (.wireResponse response) = .ok (.responseReadHolding 3 3 (some 2) [0x0123] 0x0D) := by
  decide +kernel

theorem test_witness_WireDecodeIsExact :
    decode Params.default (.wireFrame [0x0A, 0xFF, 0x01, 0x81, 0x80, 0x0D]) = .ok (.frame 0xFF 0x01 []) ∧
    (∀ c, Encoding.wireFrame [0x0A, 0xFF, 0x01, 0x81, 0x80, 0x0D] ≠ .command c) :=
  ⟨by decide +kernel, fun _ h => by cases h⟩

theorem test_witness_EncodedFrameLength : ([0x00, 0xD9, 0x00, 0x01] : List Byte).length = 4 := rfl

theorem test_witness_CrcComputeResult : State.reset.chState = .idle := rfl
theorem test_witness_CrcValidateResult : State.reset.chState = .idle := rfl
theorem test_witness_ValidateAcceptsCompute : State.reset.chState = .idle := rfl
theorem test_witness_ScratchHoldsLastRemainder : State.reset.chState = .idle := rfl
theorem test_witness_ChecksumDetectsOneByte : (0xFF : Byte) ≠ 0xFE := by decide
theorem test_witness_FrmEncodeResult : State.reset.chState = .idle := rfl

/-- Every clause, at the capacity and one byte beyond it. -/
theorem test_witness_FrmFeedResult :
    let s : State := { State.reset with buf := [0x0A, 0x01], params := { Params.default with bufCap := some 4 } }
    s.chState = .idle ∧ (∀ c, s.params.bufCap = some c → s.buf.length + ([0x03, 0x02] : List Byte).length ≤ c) ∧
    s.params.bufCap = some 4 ∧ 4 < s.buf.length + ([0x03, 0x02, 0x00] : List Byte).length ∧
    (holding [0x0A, 0x01]).chState = .idle ∧ (holding [0x0A, 0x01]).params.bufCap = none ∧
    (holding [0x0A, 0x01]).buf = [0x0A, 0x01] ∧ fits (some 2) (holding [0x0A, 0x01]).buf.length = true :=
  ⟨rfl, fun c h => by cases h; decide, rfl, by decide, rfl, rfl, rfl, rfl⟩

/-- The four clauses: no START; no END; a span of two bytes; a span of three (the shortest) and of six. -/
theorem test_witness_TryDecodeOutcomes :
    State.reset.chState = .idle ∧ START ∉ (holding [0x00, 0x0D]).buf ∧
    ((holding [0x55, 0x0A, 0x01]).buf = [0x55] ++ START :: [0x01] ∧ START ∉ ([0x55] : List Byte) ∧
      END ∉ ([0x01] : List Byte)) ∧
    ((holding [0x0A, 0x0D, 0x55]).buf = [] ++ START :: ([] ++ END :: [0x55]) ∧ END ∉ ([0x55] : List Byte)) ∧
    (holding [0x0A, 0x55, 0x0D]).buf = [] ++ START :: ([0x55] ++ END :: []) ∧
    (holding [0x0A, 0xFF, 0x01, 0x81, 0x80, 0x0D]).buf = [] ++ START :: ([0xFF, 0x01, 0x81, 0x80] ++ END :: []) := by decide

theorem test_witness_TryDecodeIdempotent : State.reset.chState = .idle := rfl

theorem test_witness_FrmPayloadResult :
    (after .frmTryDecode (holding sourceFrame)).chState = .idle ∧ (after .frmTryDecode (holding sourceFrame)).valid = true ∧
    State.reset.chState = .idle ∧ State.reset.valid = false := by decide +kernel

theorem test_witness_FrmAdvanceResult : State.reset.chState = .idle := rfl

theorem test_witness_FrmResetResult : (holding [0x0A, 0x0D]).chState = .idle ∧ (holding [0x0A, 0x0D]).buf = [0x0A, 0x0D] :=
  ⟨rfl, rfl⟩

/-- At the smallest capacity that takes the frame. -/
theorem test_witness_EncodedFrameDecodes :
    let s : State := { State.reset with params := { Params.default with bufCap := some 6 } }
    s.chState = .idle ∧ s.buf = [] ∧ fits s.params.bufCap (([] : List Byte).length + 6) = true := by decide

theorem test_witness_FrameBetweenNoiseDecodes :
    let s := holding ([0x00, 0xFF, 0x0D, 0x55] ++ (encodeFrame 0xFF 0x01 [] ++ [0x11, 0x22]))
    s.chState = .idle ∧ START ∉ ([0x00, 0xFF, 0x0D, 0x55] : List Byte) ∧ END ∉ ([0x11, 0x22] : List Byte) ∧
    s.buf = [0x00, 0xFF, 0x0D, 0x55] ++ (encodeFrame 0xFF 0x01 [] ++ [0x11, 0x22]) :=
  ⟨rfl, by decide, by decide, rfl⟩

theorem test_witness_BackToBackDecoding :
    let s : State := { holding (encodeFrame 1 3 [0x02]) with params := { Params.default with bufCap := some 13 } }
    s.chState = .idle ∧ s.buf = encodeFrame 1 3 [0x02] ∧
    fits s.params.bufCap ((([0x02] : List Byte).length + 6) + (([] : List Byte).length + 6)) = true :=
  ⟨rfl, rfl, by decide⟩

theorem test_witness_CodecLeavesChannelAlone :
    Instr.frmTryDecode ∈ [Instr.crcCompute [], .crcValidate [] 0, .frmEncode 0 0 [], .frmFeed [], .frmTryDecode, .frmPayload,
      .frmAdvance, .frmReset] := by decide

/-- Each row of R140's table with a line that leads to it, by the vectors T1, T3 to T8, T12 and their like. -/
theorem test_witness_TransactOutcomeTable :
    (0 : BitVec 18) ≠ 9 ∧
    ∀ x ∈ [(([] : List Byte), ([] : List Byte), Status.noResponse, 1), ([0x55], [], .framingError, 1),
        ([0x0A, 0x03, 0x03], [], .checksumMismatch, 1), (response, [], .ok, 1), ([0x00, 0x00], [], .noResponse, 2),
        ([0x00, 0x0A], [0x03, 0x03], .framingError, 2), ([0x00], [0x0A, 0x03, 0x03, 0x02, 0x01, 0x22, 0x81, 0xCD, 0x0D],
          .checksumMismatch, 2), ([0x00, 0x00, 0x00], response, .ok, 2), ([0x00], [0x00, 0x0A], .resyncExhausted, 2)],
      (listening [x.1, x.2.1]).chState = .idle ∧ (listening [x.1, x.2.1]).quiet = true ∧
      (after (.chTransact 3 3 [0x00, 0xD9, 0x00, 0x01] 9) (listening [x.1, x.2.1])).status = x.2.2.1 ∧
      (after (.chTransact 3 3 [0x00, 0xD9, 0x00, 0x01] 9) (listening [x.1, x.2.1])).attempt = x.2.2.2 := by decide +kernel

theorem test_witness_TransactWholeState :
    (listening [response]).chState = .idle ∧ (listening [response]).quiet = true ∧ (9 : BitVec 18) ≠ 0 := by decide

/-- The state before an accepted transaction into which bytes fall at `phase`. -/
def disturbed (phase : ChState) : State :=
  { State.reset with inbox := [{ phase := phase, act := .line response, written := 4 }] }

/-- Each phase of the two clauses. -/
theorem test_witness_LateBytesHeadTheFirstRead : ∀ phase ∈ [ChState.drain, .settle, .tx, .rx],
    (disturbed phase).chState = .idle ∧ (9 : BitVec 18) ≠ 0 ∧
    (disturbed phase).inbox = { phase := phase, act := .line response, written := 4 } :: [] ∧
    State.quiet { disturbed phase with inbox := [] } = true := by decide

theorem test_witness_RequestSentOnce :
    (listening [[0x00], response]).chState = .idle ∧ (listening [[0x00], response]).quiet = true ∧ (9 : BitVec 18) ≠ 0 := by
  decide

theorem test_witness_TransactZeroLengthRefused : State.reset.chState = .idle := rfl

theorem test_witness_StaleBytesDoNotMatter :
    let s := { listening [response] with rxq := [0x55, 0x0D] }
    s.chState = .idle ∧ s.quiet = true ∧ (9 : BitVec 18) ≠ 0 := by decide

/-- With every length at its bound. -/
theorem test_witness_ReceivePathsAgree :
    let s : State := { listening [encodeFrame 3 3 [0x02, 0x01, 0x23]] with
      params := { Params.default with bufCap := some 9 } }
    s.chState = .idle ∧ s.quiet = true ∧ s.buf = [] ∧
    fits s.params.bufCap (([0x02, 0x01, 0x23] : List Byte).length + 6) = true ∧
    s.nextDraw = { arrive := encodeFrame 3 3 [0x02, 0x01, 0x23], take := 9 } ∧
    ([0x02, 0x01, 0x23] : List Byte).length + 6 ≤ 9 ∧
    ([0x02, 0x01, 0x23] : List Byte).length + 6 ≤ (9 : BitVec 18).toNat := by decide +kernel

/-- A candidate in CHECK. -/
def checking (r : List Byte) (points : Option Word) : State :=
  { waiting with chState := .check, rx := r, req := { State.reset.req with points := points } }

/-- Each state of the sequencer; in RX each attempt; in CHECK a short candidate, one of six bytes with a wrong checksum, and
right ones for both operations. -/
theorem test_witness_SequencerTransitions :
    (∀ c : ChState, ({ State.reset with chState := c } : State).chState = c) ∧
    (waiting.chState = .rx ∧ waiting.attempt < 2 ∧ ({ waiting with attempt := 1 } : State).attempt < 2) ∧
    ((checking [0x0A] none).chState = .check ∧ (checking [0x0A, 1, 2, 3, 4] none).rx.length < 6) ∧
    (let s := checking [0x0A, 0xFF, 0x01, 0x80, 0x80, 0x0D] none
     6 ≤ s.rx.length ∧ crc16 (slice s.rx 1 (s.rx.length - 3)) ≠
       u16le (byteAt s.rx (s.rx.length - 3)) (byteAt s.rx (s.rx.length - 2))) ∧
    let s := checking response (some 1)
    6 ≤ s.rx.length ∧ crc16 (slice s.rx 1 (s.rx.length - 3)) =
      u16le (byteAt s.rx (s.rx.length - 3)) (byteAt s.rx (s.rx.length - 2)) ∧ s.req.points = some 1 ∧
    (checking response none).req.points = none :=
  ⟨fun _ => rfl, by decide, by decide, by decide +kernel, by decide +kernel⟩

theorem test_witness_TransactionTerminates : waiting.chState ≠ .idle ∧ waiting.quiet = true := by decide

theorem test_witness_BusyRefusesEveryOperation : isCommand (.anyOtherOp 0x30) = true ∧ isCommand (.regRead 3 0xD9 1) = true ∧
    waiting.chState ≠ .idle := by decide

theorem test_witness_OverlapDoesNoHarm : isCommand .frmTryDecode = true ∧ waiting.chState ≠ .idle ∧ waiting.quiet = true ∧
    ({ waiting with chState := .tx } : State).quiet = true := by decide

/-- At the largest count, which is MAX_POINTS. -/
theorem test_witness_RegReadIsTransactThenDecode :
    let s := listening [[]]
    s.chState = .idle ∧ s.quiet = true ∧ (0xFFFF : Word) ≠ 0 ∧ 0xFFFF ≤ s.params.maxPoints := by decide

/-- T9: two registers, at the bounds of the lengths. -/
theorem test_witness_RegReadReturnsRegisters :
    let s : State := { State.reset with
      line := [{ arrive := encodeResponse 15 3 (some 4) [0x0001, 0x86A0] 0x0D, take := 11 }]
      params := { Params.default with maxPoints := 2 } }
    s.chState = .idle ∧ s.quiet = true ∧ (2 : Word) ≠ 0 ∧ 2 ≤ s.params.maxPoints ∧
    ([0x0001, 0x86A0] : List Word).length = (2 : Word).toNat ∧ (some (4 : Byte)).isSome = s.params.byteCountByte ∧
    s.nextDraw = { arrive := encodeResponse 15 3 (some 4) [0x0001, 0x86A0] 0x0D, take := 11 } ∧
    2 * (2 : Word).toNat + 7 ≤ 11 := by decide +kernel

/-- No register, and one more than MAX_POINTS. -/
theorem test_witness_RegReadRefused :
    let s : State := { State.reset with params := { Params.default with maxPoints := 125 } }
    s.chState = .idle ∧ ((0 : Word) = 0 ∨ s.params.maxPoints < 0) ∧ ((126 : Word) = 0 ∨ s.params.maxPoints < 126) := by decide

/-- Every class, the longest read, and the last attempt. -/
theorem test_witness_ReadClassConsequences :
    let rest : List Byte := [1, 2, 3, 4, 5, 6, 7, 8]
    waiting.chState = .rx ∧ waiting.line = [] ∧ waiting.rxq = [] ∧ waiting.attempt < 2 ∧
    rest.length + 1 ≤ waiting.expLen.toNat ∧ waiting.attempt = 0 ∧ ({ waiting with attempt := 1 } : State).attempt = 1 ∧
    (0x55 : Byte) ≠ 0x00 ∧ (0x55 : Byte) ≠ 0x0A ∧
    ({ waiting with rxq := [0x55], line := [{ arrive := [], take := 1 }] } : State).chState = .rx := by decide

theorem test_witness_ReadRowsFixLaterReads : State.reset.chState ≠ .rx := by decide

theorem test_witness_StepRunsIssuedOperation :
    let s : State := { waiting with inbox := [{ phase := .rx, act := .op { op := 0x12 } }] }
    Instr.wellFormed s.params .frmTryDecode = true ∧ encode .frmTryDecode = .command { op := 0x12 } ∧
    s.inbox = { phase := .rx, act := .op { op := 0x12 } } :: [] ∧ (s.chState = .idle ∨ ChState.rx = s.chState) ∧
    s.chState ≠ .tx ∧ ({ s with chState := .tx } : State).chState = .tx := by decide

theorem test_witness_StepRunsLineActs :
    let s : State := { State.reset with inbox := [{ phase := .idle, act := .line response }] }
    let u : State := { waiting with inbox := [{ phase := .rx, act := .read [0x0A, 0x03] }] }
    (s.chState = .idle ∨ ChState.idle = s.chState) ∧ s.inbox = { phase := .idle, act := .line response } :: [] ∧
    Instr.wellFormed s.params (.responseReadHolding 3 3 (some 2) [0x0123] 0x0D) = true ∧
    encode (.responseReadHolding 3 3 (some 2) [0x0123] 0x0D) = .wireResponse response ∧
    (u.chState = .idle ∨ ChState.rx = u.chState) ∧ u.inbox = { phase := .rx, act := .read [0x0A, 0x03] } :: [] ∧
    encode (.readStartLed [0x03]) = .read [0x0A, 0x03] := by decide +kernel

theorem test_witness_IdleBlockKeepsItsState : State.reset.chState = .idle ∧ State.reset.inbox = [] := ⟨rfl, rfl⟩

/-- In the middle of a transaction. -/
theorem test_witness_ResetInputAborts :
    let s : State := { waiting with inbox := [{ phase := .rx, act := .reset }] }
    let u : State := { waiting with chState := .tx, inbox := [{ phase := .tx, act := .reset, written := 3 }] }
    s.inbox = { phase := .rx, act := .reset } :: [] ∧ (s.chState = .idle ∨ ChState.rx = s.chState) ∧ s.chState ≠ .tx ∧
    u.inbox = { phase := .tx, act := .reset, written := 3 } :: [] ∧ ChState.tx = u.chState := by decide

theorem test_witness_AbortedRequestStaysPartlySent :
    let s : State := { State.reset with inbox := [{ phase := .tx, act := .reset, written := 3 }] }
    s.chState = .idle ∧ (9 : BitVec 18) ≠ 0 ∧ s.inbox = { phase := .tx, act := .reset, written := 3 } :: [] := by decide


/-- A step that searches S4's frame, from a good state. -/
def searching : State := { holding sourceFrame with inbox := [{ phase := .idle, act := .op { op := 0x12 } }] }

theorem test_witness_ParametersNeverChange : step searching = .next (stepped searching) := rfl

theorem test_witness_StepKeepsInvariant :
    searching.Inv ∧ step searching = .next (stepped searching) ∧ (stepped searching).valid = true :=
  ⟨by constructor <;> decide +kernel, rfl, by decide +kernel⟩

end Sys2Proof.Tests
end

section
/-! SUPPORT. Wire bytes that a decoder accepts are those the encoder answers (R60, R62, R63), and an instruction that is
encoded as wire bytes appends them to `rxq` (R30; log 9). -/

namespace Sys2Proof

open Machine

theorem encode_of_decodeFrame (bs : List Byte) (i : Instr) (h : decodeFrame bs = .ok i) : encode i = .wireFrame bs := by
  unfold decodeFrame at h
  split at h
  · cases h
  · rename_i hw
    split at h
    · cases h
    · rename_i hend
      cases h
      obtain ⟨-, hbs⟩ := eq_wrap_of_checkWire bs hw
      rw [not_not.1 hend] at hbs
      exact congrArg Encoding.wireFrame hbs.symm

/-- Four payload bytes are the request payload of the two fields they hold (R62). -/
theorem requestPayload_u16be (b0 b1 b2 b3 : Byte) :
    requestPayload (u16be b0 b1) (u16be b2 b3) = [b0, b1, b2, b3] := by
  simp [requestPayload]

/-- Ten bytes of wire format hold the two fields of a request as their payload (R62). -/
theorem payloadOf_of_length_ten (bs : List Byte) (hw : checkWire bs = .ok ()) (h : bs.length = 10) :
    payloadOf bs = requestPayload (u16be (byteAt bs 3) (byteAt bs 4)) (u16be (byteAt bs 5) (byteAt bs 6)) := by
  obtain ⟨-, hbs⟩ := eq_wrap_of_checkWire bs hw
  have hp : (payloadOf bs).length = 4 := by
    rw [payloadOf, slice_length, h]
    rfl
  obtain ⟨b0, b1, b2, b3, hb⟩ := List.length_eq_four.1 hp
  rw [requestPayload_u16be, hb]
  rw [hb] at hbs
  rw [hbs]
  rfl

theorem encode_of_decodeRequest (bs : List Byte) (i : Instr) (h : decodeRequest bs = .ok i) :
    encode i = .wireRequest bs := by
  unfold decodeRequest at h
  split at h
  · cases h
  · rename_i hw
    split at h
    · cases h
    · rename_i hlen
      split at h
      · cases h
      · rename_i hend
        split at h
        · cases h
        · rename_i hfc
          cases h
          obtain ⟨-, hbs⟩ := eq_wrap_of_checkWire bs hw
          rw [not_not.1 hend, not_not.1 hfc, payloadOf_of_length_ten bs hw (not_not.1 hlen)] at hbs
          exact congrArg Encoding.wireRequest hbs.symm

/-- A payload long enough for the header RSP_HDR_BYTES asks for is that header, byte 3 of the frame, and the register data
(R63). -/
theorem byteCount_append_registerData (p : Params) (bs : List Byte) (hw : checkWire bs = .ok ())
    (h : p.rspHdrBytes ≤ (payloadOf bs).length) :
    (if p.byteCountByte then some (byteAt bs 3) else none).toList ++ (payloadOf bs).drop p.rspHdrBytes
      = payloadOf bs := by
  unfold Params.rspHdrBytes at h ⊢
  by_cases hp : p.byteCountByte
  · simp only [hp, if_true] at h ⊢
    obtain ⟨-, hbs⟩ := eq_wrap_of_checkWire bs hw
    obtain ⟨c, rest, hc⟩ := List.exists_cons_of_length_pos h
    have h3 : byteAt bs 3 = c := by
      rw [hbs, hc]
      rfl
    simp [h3, hc]
  · simp [hp]

theorem encode_of_decodeResponse (p : Params) (bs : List Byte) (i : Instr) (h : decodeResponse p bs = .ok i) :
    encode i = .wireResponse bs := by
  unfold decodeResponse at h
  split at h
  · cases h
  · rename_i hw
    dsimp only at h
    split at h
    · cases h
    · rename_i hbad
      cases h
      obtain ⟨hhdr, heven, -, -⟩ : p.rspHdrBytes ≤ (payloadOf bs).length ∧
          ((payloadOf bs).drop p.rspHdrBytes).length % 2 = 0 ∧ _ ∧ _ := by
        simpa only [not_or, not_lt, ne_eq, not_not] using hbad
      obtain ⟨-, hbs⟩ := eq_wrap_of_checkWire bs hw
      rw [encode, encodeResponse, registerBytes_registersOf _ heven, byteCount_append_registerData p bs hw hhdr, ← hbs]

/-- The instruction is one of the three wire formats and these are its bytes (R60, R62, R63). -/
def Instr.HasWireBytes (i : Instr) (bs : List Byte) : Prop :=
  encode i = .wireFrame bs ∨ encode i = .wireRequest bs ∨ encode i = .wireResponse bs

/-- Whatever row a burst is taken for, the burst is that row's bytes (log 16). -/
theorem hasWireBytes_of_decodeLine (p : Params) (bs : List Byte) (i : Instr) (h : decodeLine p bs = some i) :
    i.HasWireBytes bs := by
  have frame : ∀ j, decodeFrame bs = .ok j → j.HasWireBytes bs := fun j hj => .inl (encode_of_decodeFrame bs j hj)
  have response : ∀ j, decodeResponse p bs = .ok j → j.HasWireBytes bs :=
    fun j hj => .inr (.inr (encode_of_decodeResponse p bs j hj))
  unfold decodeLine at h
  split at h
  · cases h
    exact .inr (.inl (encode_of_decodeRequest bs _ ‹_›))
  · split at h
    · cases h
      exact response _ ‹_›
    · split at h
      · cases h
        exact response _ ‹_›
      · cases h
        exact frame _ ‹_›
    · cases h
      exact frame _ ‹_›
    · cases h

/-- The bytes of a well-formed read row are decoded to that row: the four classes exclude each other (R69). -/
theorem decodeRead_of_encode (p : Params) (i : Instr) (bs : List Byte) (hwf : i.wellFormed p = true)
    (h : encode i = .read bs) : decodeRead bs = i := by
  cases i with
  | readEmpty => cases h; rfl
  | readFillerLed rest => cases h; simp [decodeRead]
  | readOtherLed b rest =>
    cases h
    obtain ⟨hfiller, hstart⟩ : b ≠ FILLER ∧ b ≠ START := by simpa [Instr.wellFormed] using hwf
    simp [decodeRead, hfiller, hstart]
  | readStartLed rest => cases h; simp [decodeRead, START, FILLER]
  | _ => cases h

end Sys2Proof

namespace Sys2Proof.Machine

/-- An instruction that is wire bytes only lets them arrive (R30, R52; log 9). -/
theorem exec_of_hasWireBytes (i : Instr) (bs : List Byte) (s : State) (h : i.HasWireBytes bs) :
    exec i s = .next (s.lineAppend bs) := by
  cases i with
  | frame a f p => rcases h with h | h | h <;> cases h; rfl
  | requestReadHolding a start n => rcases h with h | h | h <;> cases h; rfl
  | responseReadHolding a f bc regs last => rcases h with h | h | h <;> cases h; rfl
  | _ => rcases h with h | h | h <;> cases h

/-- A burst arrives whole, frame or noise (R8, R30). -/
theorem perform_line (bs : List Byte) (s : State) : perform (.line bs) s = .next (s.lineAppend bs) := by
  cases h : decodeLine s.params bs with
  | none => simp only [perform, h]
  | some i =>
    simp only [perform, h]
    exact exec_of_hasWireBytes i bs s (hasWireBytes_of_decodeLine _ bs i h)

/-- Settles O48: the act is taken from the inbox, and a burst acts alike whether or not a wire format accepts it. -/
theorem stepRunsLineActs : Obligations.StepRunsLineActs := by
  intro s bs phase w acts htaken
  constructor
  · intro hin
    have arrives : step s = .next ((State.writeUpTo { s with inbox := acts } w).lineAppend bs) := by
      rw [step_of_taken s _ acts hin htaken, perform_line]
    constructor
    · rw [arrives]
      simp [State.lineAppend]
    · intro i _ hbytes
      rw [arrives, exec_of_hasWireBytes i bs _ hbytes]
  · intro hin i hwf hread
    rw [step_of_taken s _ acts hin htaken, perform, decodeRead_of_encode s.params i bs hwf hread]

end Sys2Proof.Machine
end

section
/-! SUPPORT. No operation, no act of the line and no transition of the sequencer writes a parameter (R29). -/

namespace Sys2Proof.Machine

section Params

variable (s : State)

/-- Refused or run, an operation keeps the parameters when its meaning in IDLE does. -/
theorem State.whenIdle_params (f : State → State) (h : (f s).params = s.params) : (s.whenIdle f).params = s.params := by
  unfold State.whenIdle
  split
  · exact h
  · exact s.refuse_params

@[simp] theorem State.transact_params (r : Request) (n : BitVec 18) : (s.transact r n).params = s.params :=
  (State.sameDecoder_runSequencer _ (s.startTransaction r n)).params

@[simp] theorem State.lineReads_params (bs : List Byte) : (s.lineReads bs).params = s.params := by
  unfold State.lineReads
  dsimp only
  split
  · exact (State.sameDecoder_readStep _).params
  · rfl

@[simp] theorem State.resetInput_params : s.resetInput.params = s.params := rfl

/-- No instruction writes a parameter (R29). -/
theorem exec_params (i : Instr) (t : State) (h : exec i s = .next t) : t.params = s.params := by
  cases i with
  | crcCompute data => cases h; exact s.whenIdle_params _ rfl
  | crcValidate data expected => cases h; exact s.whenIdle_params _ rfl
  | frmEncode a f p => cases h; exact s.whenIdle_params _ rfl
  | frmFeed data => cases h; exact s.whenIdle_params _ (by split <;> rfl)
  | frmTryDecode => cases h; exact s.whenIdle_params _ rfl
  | frmPayload => cases h; exact s.whenIdle_params _ (by split <;> rfl)
  | frmAdvance => cases h; exact s.whenIdle_params _ rfl
  | frmReset => cases h; exact s.whenIdle_params _ rfl
  | chTransact a f p n => cases h; exact s.whenIdle_params _ (by split <;> simp)
  | regRead a start n => cases h; exact s.whenIdle_params _ (by split <;> simp)
  | anyOtherOp op => cases h; rfl
  | frame a f p => cases h; rfl
  | requestReadHolding a start n => cases h; rfl
  | responseReadHolding a f bc regs last => cases h; rfl
  | readEmpty => cases h; exact s.lineReads_params _
  | readFillerLed rest => cases h; exact s.lineReads_params _
  | readOtherLed b rest => cases h; exact s.lineReads_params _
  | readStartLed rest => cases h; exact s.lineReads_params _

theorem perform_params (a : Act) (t : State) (h : perform a s = .next t) : t.params = s.params := by
  cases a with
  | op c => exact exec_params s _ t h
  | line bs =>
    rw [perform_line] at h
    cases h
    rfl
  | read bs => exact exec_params s _ t h
  | reset => cases h; rfl

/-- A step is the next act, if it is taken now, and else the sequencer going on (logs 2, 12). -/
theorem step_cases :
    (∃ e acts, s.inbox = e :: acts ∧ (s.chState = .idle ∨ e.phase = s.chState) ∧
      step s = perform e.act (State.writeUpTo { s with inbox := acts } e.written)) ∨
    ((∀ e ∈ s.inbox.head?, s.chState ≠ .idle ∧ e.phase ≠ s.chState) ∧
      step s = .next (State.runSequencer maxTransitions s)) := by
  cases hin : s.inbox with
  | nil => exact .inr ⟨by simp, by simp only [step, nextStep, hin]⟩
  | cons e acts =>
    by_cases htaken : s.chState = .idle ∨ e.phase = s.chState
    · exact .inl ⟨e, acts, rfl, htaken, step_of_taken s e acts hin htaken⟩
    · obtain ⟨hbusy, hphase⟩ := not_or.1 htaken
      exact .inr ⟨by simp [hbusy, hphase], by simp [step, nextStep, hin, State.takes, hbusy, hphase]⟩

end Params

/-- Settles O54: an act keeps the parameters by `perform_params`, the sequencer by `State.sameDecoder_runSequencer`. -/
theorem parametersNeverChange : Obligations.ParametersNeverChange := by
  intro s t h
  rcases step_cases s with ⟨e, acts, -, -, he⟩ | ⟨-, he⟩
  · rw [he] at h
    simpa using perform_params _ e.act t h
  · rw [he] at h
    cases h
    exact (State.sameDecoder_runSequencer _ s).params

end Sys2Proof.Machine
end

section
/-! SUPPORT. The decoder's part of the state as one value, and what a search and the codec's operations keep of it (R27, R28,
R113, R114). -/

namespace Sys2Proof.Machine

/-- The decoder's buffer, latches and flags (R26 to R28), in the form in which a search answers them. -/
def State.decoder (s : State) : Scan :=
  { buf := s.buf, hdrLen := s.hdrLen, hdrAddr := s.hdrAddr, hdrCrc := s.hdrCrc, ready := s.ready, valid := s.valid }

/-- The state with another decoder. -/
def State.withDecoder (s : State) (d : Scan) : State :=
  { s with
    buf := d.buf, hdrLen := d.hdrLen, hdrAddr := d.hdrAddr, hdrCrc := d.hdrCrc, ready := d.ready, valid := d.valid }

/-- What R27, R28, R113 and R114 say of the latches and flags over a buffer. -/
structure Scan.Sound (r : Scan) : Prop where
  latchesClear : r.ready = false → r.hdrLen = 0 ∧ r.hdrAddr = 0 ∧ r.hdrCrc = 0
  spanInBuf : r.ready = true →
    3 ≤ r.hdrLen ∧ r.hdrLen ≤ r.buf.length ∧ byteAt r.buf 0 = START ∧ byteAt r.buf (r.hdrLen - 1) = END
  latchesAgree : r.ready = true →
    r.hdrAddr = byteAt r.buf 1 ∧ r.hdrCrc = u16le (byteAt r.buf (r.hdrLen - 3)) (byteAt r.buf (r.hdrLen - 2))
  validReady : r.valid = true → r.ready = true
  validFrame : r.valid = true → 6 ≤ r.hdrLen ∧ crc16 (slice r.buf 1 (r.hdrLen - 3)) = r.hdrCrc

theorem Scan.sound_notReady (buf : List Byte) : (Scan.notReady buf).Sound := by
  constructor <;> simp [Scan.notReady]

/-- A span of three bytes or more, from a START at the head of the buffer to an END (R113, R114). -/
theorem sound_scanSpan (body tail : List Byte) (h : body ≠ []) :
    (scanSpan (START :: (body ++ END :: tail)) (body.length + 1)).Sound := by
  have hpos : 0 < body.length := List.length_pos_iff.2 h
  have hend : byteAt (START :: (body ++ END :: tail)) (body.length + 1) = END := byteAt_middle (START :: body) _ _ _ rfl
  exact
    { latchesClear := nofun
      spanInBuf := fun _ => ⟨by simp only [scanSpan]; omega, by simp [scanSpan], rfl, hend⟩
      latchesAgree := fun _ => ⟨rfl, rfl⟩
      validReady := fun _ => rfl
      validFrame := fun hv => by simpa [scanSpan, MIN_FRAME, spanRegion] using hv }

/-- Every search answers sound latches and flags (R112 to R114). -/
theorem sound_scan (buf : List Byte) : (scan buf).Sound := by
  rcases scan_cases buf with ⟨-, h⟩ | ⟨_, rest, -, -, h⟩ | ⟨_, body, tail, -, -, -, hne, h⟩ <;> rw [h]
  · exact Scan.sound_notReady buf
  · exact Scan.sound_notReady _
  · exact sound_scanSpan body tail hne

/-- A search only drops bytes (R112 step 2). -/
theorem scan_buf_length_le (buf : List Byte) : (scan buf).buf.length ≤ buf.length := by
  rcases scan_cases buf with ⟨-, h⟩ | ⟨_, rest, rfl, -, h⟩ | ⟨_, body, tail, rfl, -, -, -, h⟩ <;> rw [h]
  · exact le_rfl
  · simp [Scan.notReady]
  · simp [scanSpan]

/-- Bytes fed behind the buffer leave a found span where it is (R111). -/
theorem Scan.Sound.append {r : Scan} (h : r.Sound) (data : List Byte) :
    Scan.Sound { r with buf := r.buf ++ data } where
  latchesClear := h.latchesClear
  spanInBuf := fun hr => by
    obtain ⟨h3, hlen, hstart, hend⟩ := h.spanInBuf hr
    refine ⟨h3, by simp only [List.length_append]; omega, ?_, ?_⟩
    · rw [byteAt_append_left _ _ _ (by omega), hstart]
    · rw [byteAt_append_left _ _ _ (by dsimp only; omega), hend]
  latchesAgree := fun hr => by
    obtain ⟨h3, hlen, -, -⟩ := h.spanInBuf hr
    obtain ⟨haddr, hcrc⟩ := h.latchesAgree hr
    dsimp only
    rw [byteAt_append_left _ _ _ (by omega), byteAt_append_left _ _ _ (by omega), byteAt_append_left _ _ _ (by omega)]
    exact ⟨haddr, hcrc⟩
  validReady := h.validReady
  validFrame := fun hv => by
    obtain ⟨-, hlen, -, -⟩ := h.spanInBuf (h.validReady hv)
    dsimp only
    rw [slice_append _ _ _ _ (by omega)]
    exact h.validFrame hv

/-- Fewer bytes fit where more do. -/
theorem fits_mono (cap : Option Nat) {m n : Nat} (h : fits cap n = true) (hmn : m ≤ n) : fits cap m = true := by
  cases cap with
  | none => rfl
  | some c =>
    simp only [fits, decide_eq_true_eq] at h ⊢
    omega

end Sys2Proof.Machine
end

section
/-! SUPPORT. The operations of the Checksum unit and the Frame Codec, said once: they leave the Channel and the line alone and
keep the decoder sound (R26, R93, R94, R101, R111 to R118). -/

namespace Sys2Proof.Machine

/-- `t` has the Channel, the line, the inbox and the parameters of `s`. -/
structure State.SameChannel (s t : State) : Prop where
  rxq : t.rxq = s.rxq
  chState : t.chState = s.chState
  attempt : t.attempt = s.attempt
  expLen : t.expLen = s.expLen
  rx : t.rx = s.rx
  resVals : t.resVals = s.resVals
  params : t.params = s.params
  req : t.req = s.req
  written : t.written = s.written
  inbox : t.inbox = s.inbox
  line : t.line = s.line
  draws : t.draws = s.draws
  sent : t.sent = s.sent
  diag : t.diag = s.diag

/-- The buffer fits and the latches and flags are sound (R20, R27, R28). -/
def State.DecoderInv (s : State) : Prop := fits s.params.bufCap s.buf.length = true ∧ s.decoder.Sound

/-- What an operation of the Checksum unit or the Frame Codec does to everything but its results: the Channel stays, the operation
has ended or was refused, and a good decoder stays good. -/
structure State.CodecStep (s t : State) : Prop where
  sameChannel : s.SameChannel t
  status : t.status = .ok ∨ t.status = .refused
  decoderInv : s.DecoderInv → t.DecoderInv

/-- The eight operations of the Checksum unit and the Frame Codec (R66). -/
def isCodec : Instr → Bool
  | .crcCompute _ | .crcValidate _ _ | .frmEncode _ _ _ | .frmFeed _ | .frmTryDecode | .frmPayload | .frmAdvance
  | .frmReset => true
  | _ => false

section Codec

variable (s : State)

/-- What holds of an operation's own meaning and of its refusal holds of the operation, busy or not (R49). -/
theorem State.whenIdle_of (P : State → Prop) (f : State → State) (busy : s.chState ≠ .idle → P s.refuse)
    (run : s.chState = .idle → P (f s)) : P (s.whenIdle f) := by
  unfold State.whenIdle
  split
  · exact run ‹_›
  · exact busy ‹_›

theorem State.whenIdle_idle (f : State → State) (h : s.chState = .idle) : s.whenIdle f = f s := if_pos h

theorem State.codecStep_refuse : s.CodecStep s.refuse :=
  ⟨by constructor <;> rfl, .inr rfl, id⟩

theorem State.codecStep_whenIdle (f : State → State) (h : s.CodecStep (f s)) : s.CodecStep (s.whenIdle f) :=
  s.whenIdle_of s.CodecStep f (fun _ => s.codecStep_refuse) fun _ => h

/-- The eight operations, in every state. -/
theorem codecStep_of_exec (i : Instr) (hi : isCodec i = true) : ∃ t, exec i s = .next t ∧ s.CodecStep t := by
  cases i with
  | crcCompute data => exact ⟨_, rfl, s.codecStep_whenIdle _ ⟨by constructor <;> rfl, .inl rfl, id⟩⟩
  | crcValidate data x => exact ⟨_, rfl, s.codecStep_whenIdle _ ⟨by constructor <;> rfl, .inl rfl, id⟩⟩
  | frmEncode a f p => exact ⟨_, rfl, s.codecStep_whenIdle _ ⟨by constructor <;> rfl, .inl rfl, id⟩⟩
  | frmFeed data =>
    refine ⟨_, rfl, s.codecStep_whenIdle _ ?_⟩
    split
    · rename_i hfits
      exact ⟨by constructor <;> rfl, .inl rfl, fun h => ⟨by simpa using hfits, h.2.append data⟩⟩
    · exact s.codecStep_refuse
  | frmTryDecode =>
    exact ⟨_, rfl, s.codecStep_whenIdle _ ⟨by constructor <;> rfl, .inl rfl,
      fun h => ⟨fits_mono _ h.1 (scan_buf_length_le s.buf), sound_scan s.buf⟩⟩⟩
  | frmPayload =>
    refine ⟨_, rfl, s.codecStep_whenIdle _ ?_⟩
    split
    · exact ⟨by constructor <;> rfl, .inl rfl, id⟩
    · exact ⟨by constructor <;> rfl, .inr rfl, id⟩
  | frmAdvance =>
    exact ⟨_, rfl, s.codecStep_whenIdle _ ⟨by constructor <;> rfl, .inl rfl,
      fun h => ⟨fits_mono _ h.1 (by simp), Scan.sound_notReady _⟩⟩⟩
  | frmReset =>
    exact ⟨_, rfl, s.codecStep_whenIdle _ ⟨by constructor <;> rfl, .inl rfl,
      fun _ => ⟨fits_zero _, Scan.sound_notReady _⟩⟩⟩
  | _ => cases hi

end Codec

end Sys2Proof.Machine
end

section
/-! SUPPORT. What every step keeps of a state, part by part: the Channel's bounds over each transition of the sequencer, and with
them the invariant over every act (R20, R23, R25, R134, R161). -/

namespace Sys2Proof.Machine

/-- The Channel's part of the invariant: the queue, the attempts, the read, the results of a failure, the request (R20, R23, R25,
R134, R161). -/
structure State.ChannelInv (s : State) : Prop where
  rxqFits : fits s.params.rxqCap s.rxq.length = true
  attemptBudget : s.attempt ≤ 2
  rxFits : s.rx.length ≤ s.expLen.toNat
  failureEmpty : s.status ≠ .ok → s.status ≠ .refused → s.resBytes = [] ∧ s.resVals = []
  writtenFits : s.written ≤ s.req.bytes.length

theorem State.inv_iff (s : State) : s.Inv ↔ s.DecoderInv ∧ s.ChannelInv ∧ s.params.wf = true := by
  constructor
  · intro h
    exact ⟨⟨h.bufFits, h.latchesClear, h.spanInBuf, h.latchesAgree, h.validReady, h.validFrame⟩,
      ⟨h.rxqFits, h.attemptBudget, h.rxFits, h.failureEmpty, h.writtenFits⟩, h.paramsWf⟩
  · rintro ⟨⟨hbuf, hdec⟩, hch, hp⟩
    exact
      { bufFits := hbuf, rxqFits := hch.rxqFits, latchesClear := hdec.latchesClear, spanInBuf := hdec.spanInBuf
        latchesAgree := hdec.latchesAgree, validReady := hdec.validReady, validFrame := hdec.validFrame
        attemptBudget := hch.attemptBudget, rxFits := hch.rxFits, failureEmpty := hch.failureEmpty
        writtenFits := hch.writtenFits, paramsWf := hp }

section Channel

variable {s t : State}

/-- With the Channel as it was, an operation that has ended or was refused claims nothing of its results. -/
theorem State.ChannelInv.of_sameChannel (h : s.ChannelInv) (k : s.SameChannel t)
    (hst : t.status = .ok ∨ t.status = .refused) : t.ChannelInv where
  rxqFits := by rw [k.params, k.rxq]; exact h.rxqFits
  attemptBudget := by rw [k.attempt]; exact h.attemptBudget
  rxFits := by rw [k.rx, k.expLen]; exact h.rxFits
  failureEmpty := fun hok href => (hst.elim hok href).elim
  writtenFits := by rw [k.written, k.req]; exact h.writtenFits

theorem State.ChannelInv.emit (h : s.ChannelInv) (d : Diag) : (s.emit d).ChannelInv :=
  ⟨h.rxqFits, h.attemptBudget, h.rxFits, h.failureEmpty, h.writtenFits⟩

theorem State.ChannelInv.fail (h : s.ChannelInv) (x : Status) : (s.fail x).ChannelInv :=
  ⟨h.rxqFits, h.attemptBudget, h.rxFits, fun _ _ => ⟨rfl, rfl⟩, h.writtenFits⟩

/-- A refusal is no failure: it may empty one result register and keep the other (R161; log 8). -/
theorem State.ChannelInv.refused (h : s.ChannelInv) (bs : List Byte) (vs : List Word) :
    State.ChannelInv { s with resBytes := bs, resVals := vs, status := .refused } :=
  ⟨h.rxqFits, h.attemptBudget, h.rxFits, fun _ href => absurd rfl href, h.writtenFits⟩

theorem State.ChannelInv.crcRem (h : s.ChannelInv) (c : Word) : State.ChannelInv { s with crcRem := c } :=
  ⟨h.rxqFits, h.attemptBudget, h.rxFits, h.failureEmpty, h.writtenFits⟩

theorem State.ChannelInv.chState (h : s.ChannelInv) (c : ChState) : State.ChannelInv { s with chState := c } :=
  ⟨h.rxqFits, h.attemptBudget, h.rxFits, h.failureEmpty, h.writtenFits⟩

theorem State.ChannelInv.line (h : s.ChannelInv) (l : List LineDraw) : State.ChannelInv { s with line := l } :=
  ⟨h.rxqFits, h.attemptBudget, h.rxFits, h.failureEmpty, h.writtenFits⟩

theorem State.ChannelInv.lineAppend (h : s.ChannelInv) (bs : List Byte) : (s.lineAppend bs).ChannelInv :=
  ⟨fits_clip _ _, h.attemptBudget, h.rxFits, h.failureEmpty, h.writtenFits⟩

theorem State.ChannelInv.drainStep (h : s.ChannelInv) : s.drainStep.ChannelInv :=
  ⟨fits_zero _, h.attemptBudget, h.rxFits, h.failureEmpty, h.writtenFits⟩

theorem State.ChannelInv.transmitStep (h : s.ChannelInv) : s.transmitStep.ChannelInv :=
  ⟨h.rxqFits, h.attemptBudget, h.rxFits, h.failureEmpty, le_rfl⟩

theorem State.ChannelInv.popDraw (h : s.ChannelInv) : s.popDraw.ChannelInv := by
  rw [s.popDraw_eq]
  exact ⟨h.rxqFits, h.attemptBudget, h.rxFits, h.failureEmpty, h.writtenFits⟩

/-- A read within the budget takes no more than `exp_len` bytes, and what it leaves is held against RXQ_CAP (R23, R25). -/
theorem State.ChannelInv.lineRead (h : s.ChannelInv) (ha : s.attempt < MAX_ATTEMPTS) (d : LineDraw) :
    (s.lineRead d).ChannelInv :=
  ⟨fits_clip _ _, ha, by simp [lineReadResult], h.failureEmpty, h.writtenFits⟩

theorem State.ChannelInv.classify (h : s.ChannelInv) : s.classify.ChannelInv := by
  rcases s.classify_cases with ⟨_, e⟩ | ⟨_, e⟩ | ⟨_, e⟩ | ⟨_, _, e⟩ | ⟨_, _, e⟩ <;> rw [e]
  · exact (h.emit _).fail _
  · exact (h.emit _).fail _
  · exact h.chState _
  · exact h
  · exact h.fail _

theorem State.ChannelInv.readStep (h : s.ChannelInv) : s.readStep.ChannelInv := by
  unfold State.readStep
  split
  · exact (h.popDraw.lineRead (by rwa [s.popDraw_attempt]) _).classify
  · exact h.fail _

theorem State.ChannelInv.acceptResponse (h : s.ChannelInv) : s.acceptResponse.ChannelInv := by
  unfold State.acceptResponse
  split
  · exact ⟨h.rxqFits, h.attemptBudget, h.rxFits, fun hok => absurd rfl hok, h.writtenFits⟩
  · unfold State.decodeRegisters
    split
    · exact h.fail _
    · exact ⟨h.rxqFits, h.attemptBudget, h.rxFits, fun hok => absurd rfl hok, h.writtenFits⟩

theorem State.ChannelInv.checkStep (h : s.ChannelInv) : s.checkStep.ChannelInv := by
  unfold State.checkStep
  split
  · exact (h.emit _).fail _
  · dsimp only
    split
    · exact (h.crcRem _).acceptResponse
    · exact ((h.crcRem _).emit _).fail _

/-- One transition of the sequencer. -/
theorem State.ChannelInv.seqStep (h : s.ChannelInv) : s.seqStep.ChannelInv := by
  unfold State.seqStep
  split
  · exact h
  · exact h.drainStep
  · exact h.chState _
  · exact h.transmitStep
  · exact h.readStep
  · exact h.checkStep

/-- The sequencer, run or interrupted. -/
theorem State.ChannelInv.runSequencer (h : s.ChannelInv) (n : Nat) : (State.runSequencer n s).ChannelInv := by
  induction n generalizing s with
  | zero => exact h
  | succ n ih =>
    rw [State.runSequencer]
    split
    · exact h
    · exact ih h.seqStep

theorem State.ChannelInv.startTransaction (h : s.ChannelInv) (r : Request) (n : BitVec 18) :
    (s.startTransaction r n).ChannelInv :=
  ⟨h.rxqFits, Nat.zero_le _, Nat.zero_le _, h.failureEmpty, Nat.zero_le _⟩

/-- However far an act finds it, the request is not written beyond its end (R134; log 14). -/
theorem State.ChannelInv.writeUpTo (h : s.ChannelInv) (k : Nat) : (s.writeUpTo k).ChannelInv := by
  by_cases htx : s.chState = .tx
  · rw [s.writeUpTo_tx k htx]
    exact ⟨h.rxqFits, h.attemptBudget, h.rxFits, h.failureEmpty, max_le h.writtenFits (min_le_right _ _)⟩
  · rwa [s.writeUpTo_not_tx k htx]

end Channel

section Invariant

variable {s t : State}

/-- A change of the Channel that keeps its bounds, with the decoder and the parameters as they were, keeps the invariant. -/
theorem State.Inv.of_channelInv (h : s.Inv) (hd : t.decoder = s.decoder) (hp : t.params = s.params)
    (hc : s.ChannelInv → t.ChannelInv) : t.Inv := by
  obtain ⟨⟨hbuf, hsound⟩, hch, hwf⟩ := s.inv_iff.1 h
  have hb : t.buf = s.buf := congrArg Scan.buf hd
  exact t.inv_iff.2 ⟨⟨by rwa [hp, hb], by rwa [hd]⟩, hc hch, by rwa [hp]⟩

/-- The sequencer and its reads keep the decoder (R26). -/
theorem State.SameDecoder.decoder_eq (k : s.SameDecoder t) : t.decoder = s.decoder := by
  simp only [State.decoder, k.buf, k.hdrLen, k.hdrAddr, k.hdrCrc, k.ready, k.valid]

theorem State.Inv.of_sameDecoder (h : s.Inv) (k : s.SameDecoder t) (hc : s.ChannelInv → t.ChannelInv) : t.Inv :=
  h.of_channelInv k.decoder_eq k.params hc

theorem State.Inv.of_codecStep (h : s.Inv) (k : s.CodecStep t) : t.Inv := by
  obtain ⟨hdec, hch, hwf⟩ := s.inv_iff.1 h
  exact t.inv_iff.2 ⟨k.decoderInv hdec, hch.of_sameChannel k.sameChannel k.status, by rwa [k.sameChannel.params]⟩

theorem State.Inv.refuse (h : s.Inv) : s.refuse.Inv := h.of_codecStep s.codecStep_refuse

theorem State.Inv.inbox (h : s.Inv) (acts : List Event) : State.Inv { s with inbox := acts } :=
  h.of_channelInv rfl rfl fun c => ⟨c.rxqFits, c.attemptBudget, c.rxFits, c.failureEmpty, c.writtenFits⟩

theorem State.Inv.writeUpTo (h : s.Inv) (k : Nat) : (s.writeUpTo k).Inv :=
  h.of_channelInv (by simp [State.decoder]) (by simp) (·.writeUpTo k)

theorem State.Inv.lineAppend (h : s.Inv) (bs : List Byte) : (s.lineAppend bs).Inv :=
  h.of_channelInv rfl rfl (·.lineAppend bs)

theorem State.Inv.runSequencer (h : s.Inv) (n : Nat) : (State.runSequencer n s).Inv :=
  h.of_sameDecoder (s.sameDecoder_runSequencer n) (·.runSequencer n)

/-- A transaction, whole or interrupted, from a good state (R130). -/
theorem State.Inv.transact (h : s.Inv) (r : Request) (n : BitVec 18) : (s.transact r n).Inv := by
  have started : (s.startTransaction r n).Inv := h.of_channelInv rfl rfl (·.startTransaction r n)
  exact started.runSequencer _

/-- A read row of the table: a later read is fixed, or the awaited one returns (log 10). -/
theorem State.Inv.lineReads (h : s.Inv) (bs : List Byte) : (s.lineReads bs).Inv := by
  have hline : State.Inv { s with line := s.line ++ [{ arrive := bs, take := bs.length }] } :=
    h.of_channelInv rfl rfl (·.line _)
  unfold State.lineReads
  dsimp only
  split
  · exact hline.of_sameDecoder (State.sameDecoder_readStep _) (·.readStep)
  · exact hline

theorem State.channelInv_reset : State.reset.ChannelInv :=
  ⟨fits_zero _, Nat.zero_le _, Nat.zero_le _, fun hok => absurd rfl hok, Nat.zero_le _⟩

theorem State.decoderInv_reset : State.reset.DecoderInv := ⟨fits_zero _, Scan.sound_notReady []⟩

/-- The reset input keeps the parameters, and what it leaves in `rxq` fits (R37; log 13). -/
theorem State.Inv.resetInput (h : s.Inv) : s.resetInput.Inv :=
  s.resetInput.inv_iff.2
    ⟨⟨fits_zero _, State.decoderInv_reset.2⟩,
      { State.channelInv_reset with rxqFits := fits_clip _ _ }, h.paramsWf⟩

/-- Every instruction keeps the invariant, busy or not. -/
theorem State.Inv.exec (h : s.Inv) (i : Instr) (he : exec i s = .next t) : t.Inv := by
  by_cases hi : isCodec i = true
  · obtain ⟨u, hu, hstep⟩ := codecStep_of_exec s i hi
    rw [hu] at he
    cases he
    exact h.of_codecStep hstep
  · cases i with
    | chTransact a f p n =>
      cases he
      refine s.whenIdle_of _ _ (fun _ => h.refuse) fun _ => ?_
      split
      · exact h.of_channelInv rfl rfl (·.refused [] s.resVals)
      · exact h.transact _ _
    | regRead a start n =>
      cases he
      refine s.whenIdle_of _ _ (fun _ => h.refuse) fun _ => ?_
      split
      · exact h.of_channelInv rfl rfl (·.refused s.resBytes [])
      · exact h.transact _ _
    | anyOtherOp op => cases he; exact h.refuse
    | frame a f p => cases he; exact h.lineAppend _
    | requestReadHolding a start n => cases he; exact h.lineAppend _
    | responseReadHolding a f bc regs last => cases he; exact h.lineAppend _
    | readEmpty => cases he; exact h.lineReads _
    | readFillerLed rest => cases he; exact h.lineReads _
    | readOtherLed b rest => cases he; exact h.lineReads _
    | readStartLed rest => cases he; exact h.lineReads _
    | _ => exact absurd rfl hi

/-- Every act of the host and of the line keeps the invariant. -/
theorem State.Inv.perform (h : s.Inv) (a : Act) (he : perform a s = .next t) : t.Inv := by
  cases a with
  | op c => exact h.exec _ he
  | line bs =>
    rw [perform_line] at he
    cases he
    exact h.lineAppend bs
  | read bs => exact h.exec _ he
  | reset => cases he; exact h.resetInput

end Invariant

/-- Settles O56: a step is an act taken from the inbox, after the bytes of the request that precede it, or the sequencer going on;
each keeps the decoder's and the Channel's part of the invariant. -/
theorem stepKeepsInvariant : Obligations.StepKeepsInvariant := by
  intro s t h hstep
  rcases step_cases s with ⟨e, acts, -, -, he⟩ | ⟨-, he⟩
  · rw [he] at hstep
    exact State.Inv.perform ((h.inbox acts).writeUpTo e.written) e.act hstep
  · rw [he] at hstep
    cases hstep
    exact h.runSequencer _

/-- Settles O55. -/
theorem resetIsGood : Obligations.ResetIsGood :=
  State.reset.inv_iff.2 ⟨State.decoderInv_reset, State.channelInv_reset, rfl⟩

end Sys2Proof.Machine
end

section
/-! SUPPORT. The Channel neither reads nor writes the decoder, and the diagnostic port is only written (R26, R132, R143, R176). -/

namespace Sys2Proof.Machine

section ChTransact

variable (a f : Byte) (p : List Byte) (n : BitVec 18) (s : State)

/-- CH.TRANSACT while an operation is in progress (R49). -/
theorem exec_chTransact_busy (h : s.chState ≠ .idle) : exec (.chTransact a f p n) s = .next s.refuse :=
  congrArg Host.Outcome.next (if_neg h)

/-- CH.TRANSACT with `exp_len = 0` (R70 (c); log 8). -/
theorem exec_chTransact_zero (h : s.chState = .idle) (hn : n = 0) :
    exec (.chTransact a f p n) s = .next { s with resBytes := [], status := .refused } :=
  congrArg Host.Outcome.next ((s.whenIdle_idle _ h).trans (if_pos hn))

/-- CH.TRANSACT accepted (R130). -/
theorem exec_chTransact_idle (h : s.chState = .idle) (hn : n ≠ 0) :
    exec (.chTransact a f p n) s =
      .next (s.transact { address := a, functionCode := f, payload := p, points := none } n) :=
  congrArg Host.Outcome.next ((s.whenIdle_idle _ h).trans (if_neg hn))

end ChTransact

/-- `t` has what no transaction touches of `s`: decoder, checksum results, parameters and inbox (R26, R28, R34). -/
structure State.TransactionFrame (s t : State) : Prop where
  buf : t.buf = s.buf
  hdrLen : t.hdrLen = s.hdrLen
  hdrAddr : t.hdrAddr = s.hdrAddr
  hdrCrc : t.hdrCrc = s.hdrCrc
  ready : t.ready = s.ready
  valid : t.valid = s.valid
  resCrc : t.resCrc = s.resCrc
  resFlag : t.resFlag = s.resFlag
  params : t.params = s.params
  inbox : t.inbox = s.inbox

section Frame

variable (s : State)

/-- A transaction, whole or interrupted, touches nothing of the frame. -/
theorem State.transactionFrame_transact (r : Request) (n : BitVec 18) : s.TransactionFrame (s.transact r n) := by
  have k : (s.startTransaction r n).SameDecoder (s.transact r n) := State.sameDecoder_runSequencer _ _
  exact ⟨k.buf, k.hdrLen, k.hdrAddr, k.hdrCrc, k.ready, k.valid, k.resCrc, k.resFlag, k.params, k.inbox⟩

theorem State.transactionFrame_refuse : s.TransactionFrame s.refuse := by constructor <;> rfl

theorem transactionFrame_regRead (a : Byte) (start n : Word) :
    ∃ t, exec (.regRead a start n) s = .next t ∧ s.TransactionFrame t := by
  refine ⟨_, rfl, s.whenIdle_of _ _ (fun _ => s.transactionFrame_refuse) fun _ => ?_⟩
  split
  · constructor <;> rfl
  · exact s.transactionFrame_transact _ _

/-- The registers after CH.TRANSACT: emptied where it has failed, else as they were (R161). -/
def State.KeepsVals (s t : State) : Prop :=
  t.resVals = if t.chState = .idle ∧ t.status ≠ .ok ∧ t.status ≠ .refused then [] else s.resVals

/-- A transaction without register decode writes `res_vals` only by failing. -/
theorem State.keepsVals_transact (r : Request) (n : BitVec 18) (hr : r.points = none) :
    s.KeepsVals (s.transact r n) := by
  have stands : (s.startTransaction r n).StandsAs (s.transact r n) := State.standsAs_runSequencer _ _ (by simp)
  unfold State.KeepsVals
  rcases stands with ⟨hbusy, -, -, hvals⟩ | ⟨-, hok, -, hvals⟩ | ⟨hidle, hok, href, -, hvals⟩
  · rw [if_neg (fun h => hbusy h.1), hvals, s.startTransaction_resVals]
  · rw [if_neg (fun h => h.2.1 hok), hvals hr, s.startTransaction_resVals]
  · rw [if_pos ⟨hidle, hok, href⟩, hvals]

end Frame

/-- Settles O29: refused busy, refused for its length, or run; the frame and `res_vals` by the lemma for each. -/
theorem transactFrame : Obligations.TransactFrame := by
  intro a f p n s
  obtain ⟨t, he, k, hvals⟩ : ∃ t, exec (.chTransact a f p n) s = .next t ∧ s.TransactionFrame t ∧ s.KeepsVals t := by
    by_cases hidle : s.chState = .idle
    · by_cases hn : n = 0
      · exact ⟨_, exec_chTransact_zero a f p n s hidle hn, by constructor <;> rfl, by simp [State.KeepsVals]⟩
      · exact ⟨_, exec_chTransact_idle a f p n s hidle hn, s.transactionFrame_transact _ n,
          s.keepsVals_transact _ n rfl⟩
    · exact ⟨_, exec_chTransact_busy a f p n s hidle, s.transactionFrame_refuse, by simp [State.KeepsVals]⟩
  exact ⟨t, he, k.buf, k.hdrLen, k.hdrAddr, k.hdrCrc, k.ready, k.valid, k.resCrc, k.resFlag, k.params, k.inbox, hvals⟩

/-- Settles O42. -/
theorem regReadFrame : Obligations.RegReadFrame := by
  intro a start n s
  obtain ⟨t, he, k⟩ := transactionFrame_regRead s a start n
  exact ⟨t, he, k.buf, k.hdrLen, k.hdrAddr, k.hdrCrc, k.ready, k.valid, k.resCrc, k.resFlag, k.params, k.inbox⟩

/-- Settles O25: `codecStep_of_exec` gives it for each of the eight operations. -/
theorem codecLeavesChannelAlone : Obligations.CodecLeavesChannelAlone := by
  intro data p x a f s i hi
  have hcodec : isCodec i = true := by
    simp only [List.mem_cons, List.not_mem_nil, or_false] at hi
    rcases hi with rfl | rfl | rfl | rfl | rfl | rfl | rfl | rfl <;> rfl
  obtain ⟨t, he, hstep⟩ := codecStep_of_exec s i hcodec
  obtain ⟨h1, h2, h3, h4, h5, h6, h7, h8, h9, h10, h11, h12, h13, h14⟩ := hstep.sameChannel
  exact ⟨t, he, h1, h2, h3, h4, h5, h6, h7, h8, h9, h10, h11, h12, h13, h14⟩

/-- The state with what no transaction reads replaced: another decoder, and other events before those of the diagnostic port. -/
def State.withUnread (s : State) (d : Scan) (past : List Diag) : State :=
  { s.withDecoder d with diag := past ++ s.diag }

section Unread

variable (s : State) (d : Scan) (past : List Diag)

@[simp] theorem State.withUnread_rx : (s.withUnread d past).rx = s.rx := rfl
@[simp] theorem State.withUnread_chState : (s.withUnread d past).chState = s.chState := rfl
@[simp] theorem State.withUnread_attempt : (s.withUnread d past).attempt = s.attempt := rfl
@[simp] theorem State.withUnread_params : (s.withUnread d past).params = s.params := rfl
@[simp] theorem State.withUnread_req : (s.withUnread d past).req = s.req := rfl
@[simp] theorem State.withUnread_line : (s.withUnread d past).line = s.line := rfl
@[simp] theorem State.withUnread_nextDraw : (s.withUnread d past).nextDraw = s.nextDraw := rfl
@[simp] theorem State.withUnread_interrupted : (s.withUnread d past).interrupted = s.interrupted := rfl

@[simp] theorem State.emit_withUnread (e : Diag) : (s.withUnread d past).emit e = (s.emit e).withUnread d past := by
  simp [State.emit, State.withUnread, State.withDecoder]

theorem State.fail_withUnread (x : Status) : (s.withUnread d past).fail x = (s.fail x).withUnread d past := rfl

theorem State.drainStep_withUnread : (s.withUnread d past).drainStep = s.drainStep.withUnread d past := by
  by_cases hq : s.rxq = [] <;> simp [State.drainStep, State.withUnread, State.withDecoder, hq]

theorem State.popDraw_withUnread : (s.withUnread d past).popDraw = s.popDraw.withUnread d past := by
  unfold State.popDraw
  rw [s.withUnread_line]
  cases s.line <;> rfl

theorem State.classify_withUnread : (s.withUnread d past).classify = s.classify.withUnread d past := by
  unfold State.classify
  rw [s.withUnread_rx]
  cases readClass s.rx with
  | empty => simp only [State.emit_withUnread, State.fail_withUnread]
  | otherLed => simp only [State.emit_withUnread, State.fail_withUnread]
  | startLed => rfl
  | fillerLed =>
    dsimp only
    rw [s.withUnread_attempt]
    split <;> rfl

theorem State.readStep_withUnread : (s.withUnread d past).readStep = s.readStep.withUnread d past := by
  unfold State.readStep
  rw [s.withUnread_attempt]
  split
  · rw [← State.classify_withUnread, State.popDraw_withUnread, State.withUnread_nextDraw]
    rfl
  · rfl

theorem State.acceptResponse_withUnread :
    (s.withUnread d past).acceptResponse = s.acceptResponse.withUnread d past := by
  unfold State.acceptResponse
  rw [s.withUnread_req]
  cases s.req.points with
  | none => rfl
  | some n =>
    dsimp only [State.decodeRegisters]
    rw [s.withUnread_rx, s.withUnread_params]
    split <;> rfl

theorem State.checkStep_withUnread : (s.withUnread d past).checkStep = s.checkStep.withUnread d past := by
  rcases Nat.lt_or_ge s.rx.length 6 with hlt | hge
  · rw [s.checkStep_short hlt, (s.withUnread d past).checkStep_short hlt, State.emit_withUnread, State.fail_withUnread]
  · have hcrc : ∀ c, ({ s.withUnread d past with crcRem := c } : State) = State.withUnread { s with crcRem := c } d past :=
      fun _ => rfl
    by_cases hc : crc16 (checksumRegion s.rx) = checksumField s.rx
    · rw [s.checkStep_good hge hc, (s.withUnread d past).checkStep_good hge hc, hcrc, State.acceptResponse_withUnread,
        s.withUnread_rx]
    · rw [s.checkStep_bad hge hc, (s.withUnread d past).checkStep_bad hge hc, hcrc, State.emit_withUnread,
        State.fail_withUnread, s.withUnread_rx]

/-- No transition of the sequencer reads the decoder or an event already emitted (R26, R176). -/
theorem State.seqStep_withUnread : (s.withUnread d past).seqStep = s.seqStep.withUnread d past := by
  unfold State.seqStep
  rw [s.withUnread_chState]
  cases s.chState with
  | idle => rfl
  | drain => exact s.drainStep_withUnread d past
  | settle => rfl
  | tx => rfl
  | rx => exact s.readStep_withUnread d past
  | check => exact s.checkStep_withUnread d past

theorem State.runSequencer_withUnread (n : Nat) :
    State.runSequencer n (s.withUnread d past) = (State.runSequencer n s).withUnread d past := by
  induction n generalizing s with
  | zero => rfl
  | succ n ih =>
    rw [State.runSequencer, State.runSequencer, s.withUnread_chState, s.withUnread_interrupted]
    split
    · rfl
    · rw [s.seqStep_withUnread, ih]

theorem State.transact_withDecoder (r : Request) (n : BitVec 18) :
    (s.withDecoder d).transact r n = (s.transact r n).withDecoder d :=
  State.runSequencer_withUnread (s.startTransaction r n) d [] maxTransitions

/-- Other events emitted before lead to other events, and to nothing else. -/
theorem State.runSequencer_diag (n : Nat) (before : List Diag) :
    ∃ after, State.runSequencer n { s with diag := before } = { State.runSequencer n s with diag := after } := by
  have rebase : ∀ events, State.runSequencer n { s with diag := events }
      = (State.runSequencer n { s with diag := [] }).withUnread s.decoder events := by
    intro events
    rw [← State.runSequencer_withUnread]
    simp [State.withUnread, State.withDecoder, State.decoder]
  have own : State.runSequencer n s = _ := rebase s.diag
  rw [rebase before, own]
  exact ⟨_, rfl⟩

/-- The drain forgets what was queued: only its event tells (R132). -/
theorem State.transact_rxq (q : List Byte) (r : Request) (n : BitVec 18) (hq : s.quiet = true) :
    ∃ events, State.transact { s with rxq := q } r n = { s.transact r n with diag := events } := by
  have drains : ∀ u : State, u.quiet = true →
      u.transact r n = State.runSequencer 5 (u.startTransaction r n).drainStep := fun u hu =>
    State.runSequencer_succ 5 (u.startTransaction r n) hu (by simp)
  rw [drains s hq, drains { s with rxq := q } hq]
  exact State.runSequencer_diag (s.startTransaction r n).drainStep 5 _

end Unread

/-- Settles O33: refused or run, CH.TRANSACT commutes with putting in another decoder. -/
theorem decoderDoesNotMatterToChannel : Obligations.DecoderDoesNotMatterToChannel := by
  intro a f p b n l x c r v s
  let d : Scan := { buf := b, hdrLen := l, hdrAddr := x, hdrCrc := c, ready := r, valid := v }
  by_cases hidle : s.chState = .idle
  · by_cases hn : n = 0
    · exact ⟨_, exec_chTransact_zero a f p n s hidle hn, exec_chTransact_zero a f p n (s.withDecoder d) hidle hn⟩
    · refine ⟨_, exec_chTransact_idle a f p n s hidle hn, ?_⟩
      exact (exec_chTransact_idle a f p n (s.withDecoder d) hidle hn).trans
        (congrArg Host.Outcome.next (s.transact_withDecoder d _ n))
  · exact ⟨_, exec_chTransact_busy a f p n s hidle, exec_chTransact_busy a f p n (s.withDecoder d) hidle⟩

/-- Settles O32. -/
theorem staleBytesDoNotMatter : Obligations.StaleBytesDoNotMatter := by
  intro a f p q n s hidle hq hn
  obtain ⟨events, he⟩ := s.transact_rxq q { address := a, functionCode := f, payload := p, points := none } n hq
  exact ⟨_, exec_chTransact_idle a f p n s hidle hn, events,
    (exec_chTransact_idle a f p n { s with rxq := q } hidle hn).trans (congrArg Host.Outcome.next he)⟩

end Sys2Proof.Machine
end

section
/-! SUPPORT. The rows of wire bytes, byte by byte (R60, R62, R63). -/

namespace Sys2Proof.Machine

/-- A frame byte by byte (R60). -/
theorem encodeFrame_eq_bytes (a f : Byte) (p : List Byte) : encodeFrame a f p =
    0x0A :: a :: f :: (p ++ [(crc16 (a :: f :: p)).extractLsb' 0 8, (crc16 (a :: f :: p)).extractLsb' 8 8, 0x0D]) := rfl

/-- Settles O44: the bytes of each row, appended (log 9). -/
theorem wireFramesArrive : Obligations.WireFramesArrive := by
  intro a f p start n bc regs last s
  have arrives : ∀ (i : Instr) (bs : List Byte), i.HasWireBytes bs →
      exec i s = .next { s with rxq := clip s.params.rxqCap (s.rxq ++ bs) } := fun i bs => exec_of_hasWireBytes i bs s
  refine ⟨?_, ?_, arrives _ _ (.inr (.inr rfl))⟩
  · rw [arrives _ _ (.inl rfl), encodeFrame_eq_bytes]
  · rw [arrives _ _ (.inr (.inl rfl)), encodeFrame_eq_bytes, requestPayload_eq]
    rfl

end Sys2Proof.Machine
end

section
/-! SUPPORT. A register read whose first read takes a good response whole: what is sent, read and decoded (R62, R63, R141, R150
to R152). -/

namespace Sys2Proof.Machine

theorem encodeResponse_length (a f : Byte) (bc : Option Byte) (regs : List Word) (last : Byte) :
    (encodeResponse a f bc regs last).length = bc.toList.length + 2 * regs.length + 6 := by
  simp [encodeResponse]

/-- The byte count is there exactly when RSP_HDR_BYTES = 1 (R63). -/
theorem byteCount_length (p : Params) (bc : Option Byte) (h : bc.isSome = p.byteCountByte) :
    bc.toList.length = p.rspHdrBytes := by
  unfold Params.rspHdrBytes
  rw [← h]
  cases bc <;> rfl

/-- A read that may take all that the line brings to an empty queue takes it (R133). -/
theorem lineReadResult_whole (bs : List Byte) (k n : Nat) (hk : bs.length ≤ k) (hn : bs.length ≤ n) :
    lineReadResult [] { arrive := bs, take := k } n = bs :=
  List.take_of_length_le (Nat.le_min.2 ⟨hk, hn⟩)

theorem readClass_wrap (body : List Byte) (last : Byte) : readClass (wrap body last) = .startLed := rfl

/-- A response of the `n` registers asked for decodes to them, whatever address, function code, byte count and last byte it has
(R141, R152). -/
theorem State.acceptResponse_registers (s : State) (a f last : Byte) (bc : Option Byte) (regs : List Word) (n : Word)
    (hpoints : s.req.points = some n) (hrx : s.rx = encodeResponse a f bc regs last) (hlen : regs.length = n.toNat)
    (hbc : bc.isSome = s.params.byteCountByte) :
    s.acceptResponse =
      { s with resVals := regs, resBytes := encodeResponse a f bc regs last, status := .ok, chState := .idle } := by
  have hhdr := byteCount_length s.params bc hbc
  have hpayload : payloadOf s.rx = bc.toList ++ registerBytes regs := by rw [hrx, encodeResponse, payloadOf_wrap]
  have hwhole : (bc.toList ++ registerBytes regs).length = s.params.rspHdrBytes + 2 * n.toNat := by simp [hhdr, hlen]
  simp only [State.acceptResponse, hpoints]
  rw [State.decodeRegisters, hpayload, if_neg (not_not.2 hwhole), ← hhdr, List.drop_left, registersOf_registerBytes, hrx]

/-- A read that returned a good response ends the transaction with it accepted (R131, R138). -/
theorem State.conclude_wrap (s : State) (body : List Byte) (last : Byte) (hrx : s.rx = wrap body last)
    (h2 : 2 ≤ body.length) :
    s.conclude = State.acceptResponse { s with chState := .check, crcRem := crc16 body } := by
  have hstart : readClass s.rx = .startLed := by rw [hrx, readClass_wrap]
  have hsix : 6 ≤ s.rx.length := by rw [hrx, wrap_length]; omega
  have hcrc : crc16 (checksumRegion s.rx) = checksumField s.rx := by rw [hrx, checksumRegion_wrap, checksumField_wrap]
  simp only [State.conclude, hstart]
  rw [State.checkStep_good { s with chState := .check } hsix hcrc]
  simp only [hrx, checksumRegion_wrap]

/-- REG.READ of a count that is admitted (R150). -/
theorem exec_regRead_idle (a : Byte) (start n : Word) (s : State) (h : s.chState = .idle) (hn : n ≠ 0)
    (hmax : n ≤ s.params.maxPoints) :
    exec (.regRead a start n) s =
      .next (s.transact
        { address := a, functionCode := FC_READ_HOLDING, payload := requestPayload start n, points := some n }
        (expectedLength n)) :=
  congrArg Host.Outcome.next ((s.whenIdle_idle _ h).trans (if_neg (not_or.2 ⟨hn, BitVec.not_lt.2 hmax⟩)))

/-- The state in which the first read of a transaction has been made, with nothing falling in before it (R130 to R136). -/
def State.firstRead (s : State) (r : Request) (n : BitVec 18) : State :=
  (s.requestSent r n).popDraw.lineRead s.nextDraw

section FirstRead

variable (s : State) (r : Request) (n : BitVec 18)

@[simp] theorem State.firstRead_rx : (s.firstRead r n).rx = lineReadResult [] s.nextDraw n.toNat := by
  simp [State.firstRead, State.requestSent]

@[simp] theorem State.firstRead_attempt : (s.firstRead r n).attempt = 1 := by
  simp [State.firstRead, State.requestSent]

@[simp] theorem State.firstRead_expLen : (s.firstRead r n).expLen = n := by
  simp [State.firstRead, State.requestSent]

@[simp] theorem State.firstRead_req : (s.firstRead r n).req = r := by
  simp [State.firstRead, State.requestSent]

@[simp] theorem State.firstRead_params : (s.firstRead r n).params = s.params := by
  simp [State.firstRead, State.requestSent]

@[simp] theorem State.firstRead_sent : (s.firstRead r n).sent = s.sent ++ r.bytes := by
  simp [State.firstRead, State.requestSent]

/-- A transaction whose first read is not filler-led ends with it (R136). -/
theorem State.transact_firstRead (hq : s.quiet = true) (h : readClass (s.firstRead r n).rx ≠ .fillerLed) :
    s.transact r n = (s.firstRead r n).conclude :=
  (s.transact_quiet r n hq).trans (if_neg h)

/-- A transaction whose first read takes a response of the `m` registers it asks for (R141, R152). -/
theorem State.transact_response (a f last : Byte) (bc : Option Byte) (regs : List Word) (m : Word) (hq : s.quiet = true)
    (hr : r.points = some m) (hrx : (s.firstRead r n).rx = encodeResponse a f bc regs last)
    (hlen : regs.length = m.toNat) (hbc : bc.isSome = s.params.byteCountByte) :
    ∃ scratch : Word, s.transact r n =
      { s.firstRead r n with
        crcRem := scratch, resVals := regs, resBytes := encodeResponse a f bc regs last, status := .ok, chState := .idle } := by
  refine ⟨crc16 (frameBody a f (bc.toList ++ registerBytes regs)), ?_⟩
  rw [s.transact_firstRead r n hq (by rw [hrx, encodeResponse, readClass_wrap]; decide),
    State.conclude_wrap _ _ last hrx (by simp)]
  exact State.acceptResponse_registers
    { s.firstRead r n with chState := .check, crcRem := crc16 (frameBody a f (bc.toList ++ registerBytes regs)) }
    a f last bc regs m (by simpa using hr) hrx hlen (by simpa using hbc)

end FirstRead

/-- Settles O40: the response is no longer than `exp_len`, so the first read takes it whole, and it decodes. -/
theorem regReadReturnsRegisters : Obligations.RegReadReturnsRegisters := by
  intro a start n a' f' last bc regs k s hidle hq hn hmax hlen hbc hdraw hk
  have hlength : (encodeResponse a' f' bc regs last).length ≤ 2 * n.toNat + 7 := by
    rw [encodeResponse_length, hlen]
    have hcount : bc.toList.length ≤ 1 := by cases bc <;> simp
    omega
  have hrx : lineReadResult [] s.nextDraw (expectedLength n).toNat = encodeResponse a' f' bc regs last := by
    rw [hdraw, expectedLength_toNat]
    exact lineReadResult_whole _ _ _ (hlength.trans hk) hlength
  obtain ⟨scratch, ht⟩ := s.transact_response
    { address := a, functionCode := FC_READ_HOLDING, payload := requestPayload start n, points := some n }
    (expectedLength n) a' f' last bc regs n hq rfl (by rw [State.firstRead_rx, hrx]) hlen hbc
  refine ⟨_, (exec_regRead_idle a start n s hidle hn hmax).trans (congrArg Host.Outcome.next ht), rfl, ?_, rfl, rfl, ?_, ?_⟩
  · exact s.firstRead_attempt _ _
  · exact (congrArg BitVec.toNat (s.firstRead_expLen _ _)).trans (expectedLength_toNat n)
  · exact s.firstRead_sent _ _

end Sys2Proof.Machine
end

section
/-! SUPPORT. What the host can see between operations: the scratch remainder, the idle block, and the values of reset (R21, R37,
R177, R180). -/

namespace Sys2Proof.Machine

theorem scanRemainder_eq (old : Word) (r : Scan) :
    scanRemainder old r = if 6 ≤ r.hdrLen then crc16 (slice r.buf 1 (r.hdrLen - 3)) else old := rfl

/-- Settles O14: each evaluation writes the scratch remainder; the span of a search ends at `hdr_len - 1` (log 5). -/
theorem scratchHoldsLastRemainder : Obligations.ScratchHoldsLastRemainder := by
  intro data p x a f s hidle
  have idle : ∀ g : State → State, Host.Outcome.next (s.whenIdle g) = (.next (g s) : Host.Outcome State Fault Refusal) :=
    fun g => congrArg Host.Outcome.next (s.whenIdle_idle g hidle)
  exact ⟨⟨_, idle _, rfl⟩, ⟨_, idle _, rfl⟩, ⟨_, idle _, rfl⟩, _, idle _, scanRemainder_eq s.crcRem (scan s.buf)⟩

/-- Settles O49: there is no act to take, and the sequencer stays in IDLE. -/
theorem idleBlockKeepsItsState : Obligations.IdleBlockKeepsItsState := by
  intro s hidle hin
  rcases step_cases s with ⟨e, acts, hacts, -⟩ | ⟨-, hstep⟩
  · rw [hin] at hacts
    cases hacts
  · rw [hstep, s.runSequencer_idle _ hidle]

/-- Settles O51. -/
theorem resetValues : Obligations.ResetValues :=
  ⟨rfl, rfl, rfl, rfl, rfl, rfl, rfl, rfl, rfl, rfl, rfl, rfl, rfl, rfl, rfl⟩

theorem State.resetInput_sent (s : State) : s.resetInput.sent = s.sent := rfl

/-- Settles O52: the act is the reset input, after the bytes of the request that precede it. -/
theorem resetInputAborts : Obligations.ResetInputAborts := by
  intro s phase w acts hin htaken
  refine ⟨_, step_of_taken s _ acts hin htaken, rfl, rfl, rfl, rfl, rfl, rfl, rfl, rfl, rfl, rfl, rfl, rfl, rfl, rfl, rfl,
    by simp, State.writeUpTo_diag _ _, State.writeUpTo_inbox _ _, fun htx => ?_, fun htx => ?_⟩
  · rw [State.resetInput_sent, State.writeUpTo_not_tx { s with inbox := acts } w htx]
  · rw [State.resetInput_sent, State.writeUpTo_tx { s with inbox := acts } w htx]
    rfl

end Sys2Proof.Machine
end

section
/-! SUPPORT. What the host issues: the byte orders of its operands, the operation its command names, and the refusal while another
operation runs (R42, R43, R49, R66, R70). -/

namespace Sys2Proof.Machine

/-- The high byte counts 256 (R9). -/
theorem toNat_append_byte (h l : Byte) : (h ++ l : Word).toNat = h.toNat * 256 + l.toNat := by
  rw [BitVec.toNat_append, ← Nat.shiftLeft_add_eq_or_of_lt l.isLt, Nat.shiftLeft_eq]

/-- Settles O6: the values by `toNat_append_byte`, the inverses by the laws of the two orders. -/
theorem byteOrders : Obligations.ByteOrders :=
  ⟨fun _ => ⟨rfl, rfl⟩, fun b0 b1 => ⟨toNat_append_byte b1 b0, leBytes_u16le b0 b1⟩,
    fun h l => ⟨toNat_append_byte h l, beBytes_u16be h l⟩⟩

theorem State.whenIdle_busy (s : State) (f : State → State) (h : s.chState ≠ .idle) : s.whenIdle f = s.refuse := if_neg h

/-- What the host issues while an operation runs is refused, whatever it is (R49, R70 (a), R164 (1)). -/
theorem exec_busy (i : Instr) (s : State) (hi : isCommand i = true) (h : s.chState ≠ .idle) : exec i s = .next s.refuse := by
  have busy : ∀ f : State → State, Host.Outcome.next (s.whenIdle f) = (.next s.refuse : Host.Outcome State Fault Refusal) :=
    fun f => congrArg Host.Outcome.next (s.whenIdle_busy f h)
  cases i with
  | crcCompute data => exact busy _
  | crcValidate data x => exact busy _
  | frmEncode a f p => exact busy _
  | frmFeed data => exact busy _
  | frmTryDecode => exact busy _
  | frmPayload => exact busy _
  | frmAdvance => exact busy _
  | frmReset => exact busy _
  | chTransact a f p n => exact busy _
  | regRead a start n => exact busy _
  | anyOtherOp op => rfl
  | _ => cases hi

/-- Settles O37. -/
theorem busyRefusesEveryOperation : Obligations.BusyRefusesEveryOperation := exec_busy

/-- The command of a well-formed operation names it: the op codes differ, and any_other_op has none of them (R66, R70 (a)). -/
theorem decodeCommand_of_encode (p : Params) (i : Instr) (c : Command) (hwf : i.wellFormed p = true)
    (h : encode i = .command c) : decodeCommand c = i := by
  cases i with
  | anyOtherOp op =>
    cases h
    have unassigned : op ∉ opCodes := by simpa [Instr.wellFormed] using hwf
    simp only [opCodes, List.mem_cons, List.not_mem_nil, or_false, not_or] at unassigned
    simp only [decodeCommand, unassigned, if_false]
  | frame a f p => cases h
  | requestReadHolding a start n => cases h
  | responseReadHolding a f bc regs last => cases h
  | readEmpty => cases h
  | readFillerLed rest => cases h
  | readOtherLed b rest => cases h
  | readStartLed rest => cases h
  | _ => cases h; rfl

/-- An op code placed in the inbox is the command with zero operand ports (log 16). -/
theorem commandOfOp_toNat (op : Byte) : commandOfOp op.toNat = { op := op } := by
  rw [commandOfOp, BitVec.ofNat_toNat, BitVec.setWidth_eq]

/-- Settles O47: the act is taken, and its command is decoded to the instruction it encodes. -/
theorem stepRunsIssuedOperation : Obligations.StepRunsIssuedOperation := by
  refine ⟨?_, fun s w => ⟨s.writeUpTo_not_tx w, s.writeUpTo_tx w⟩, ?_⟩
  · intro s i c phase w acts hwf henc hin htaken
    rw [step_of_taken s _ acts hin htaken, perform, decodeCommand_of_encode s.params i c hwf henc]
  · intro s op
    rw [step_of_taken (s.withFetchWord 8 op.toNat) _ s.inbox rfl (.inr rfl), State.writeUpTo_zero, ← commandOfOp_toNat]
    rfl

end Sys2Proof.Machine
end

section
/-! SUPPORT. A transaction in progress ends within its budget, and no transition of it reads `status` (R131, R139, R161). -/

namespace Sys2Proof.Machine

/-- The largest number of transitions until IDLE: one for each state ahead and one for each read attempt left (R131, R136). -/
def State.transitionsLeft (s : State) : Nat :=
  match s.chState with
  | .idle => 0
  | .check => 1
  | .rx => 2 - s.attempt + 1
  | .tx => 2 - s.attempt + 2
  | .settle => 2 - s.attempt + 3
  | .drain => 2 - s.attempt + 4

section Progress

variable (s : State)

theorem State.transitionsLeft_eq_zero : s.transitionsLeft = 0 ↔ s.chState = .idle := by
  unfold State.transitionsLeft
  cases s.chState <;> simp

theorem State.transitionsLeft_le : s.transitionsLeft ≤ maxTransitions := by
  unfold State.transitionsLeft maxTransitions
  cases s.chState <;> dsimp only <;> omega

/-- A read attempt is counted, or the transaction leaves RX (R136, R137). -/
theorem State.transitionsLeft_readStep (h : s.chState = .rx) : s.readStep.transitionsLeft < s.transitionsLeft := by
  have here : s.transitionsLeft = 2 - s.attempt + 1 := by simp [State.transitionsLeft, h]
  have ended : ∀ t : State, t.chState = .idle → t.transitionsLeft < s.transitionsLeft := fun t ht => by
    rw [t.transitionsLeft_eq_zero.2 ht, here]
    omega
  unfold State.readStep
  split
  · have budget : s.attempt < 2 := ‹_›
    rcases State.classify_cases (s.popDraw.lineRead s.nextDraw) with ⟨-, e⟩ | ⟨-, e⟩ | ⟨-, e⟩ | ⟨-, -, e⟩ | ⟨-, -, e⟩ <;> rw [e]
    · exact ended _ rfl
    · exact ended _ rfl
    · rw [here]
      simp only [State.transitionsLeft]
      omega
    · rw [here]
      simp only [State.transitionsLeft, State.lineRead_chState, State.popDraw_chState, h, State.lineRead_attempt,
        State.popDraw_attempt]
      omega
    · exact ended _ rfl
  · exact ended _ rfl

/-- Every transition of a transaction in progress brings its end nearer (R131, R139). -/
theorem State.transitionsLeft_seqStep (h : s.chState ≠ .idle) : s.seqStep.transitionsLeft < s.transitionsLeft := by
  cases hc : s.chState with
  | idle => exact absurd hc h
  | drain => simp [State.transitionsLeft, State.seqStep, hc]
  | settle => simp [State.transitionsLeft, State.seqStep, hc]
  | tx => simp [State.transitionsLeft, State.seqStep, hc]
  | rx =>
    simp only [State.seqStep, hc]
    exact s.transitionsLeft_readStep hc
  | check => simp [State.transitionsLeft, State.seqStep, hc]

/-- A transaction that nothing falls into ends when it is given as many transitions as it may need. -/
theorem State.runSequencer_ends (n : Nat) (hq : s.quiet = true) (hn : s.transitionsLeft ≤ n) :
    (State.runSequencer n s).chState = .idle := by
  induction n generalizing s with
  | zero => exact s.transitionsLeft_eq_zero.1 (Nat.le_zero.1 hn)
  | succ n ih =>
    by_cases hidle : s.chState = .idle
    · rwa [State.runSequencer_idle _ _ hidle]
    · rw [s.runSequencer_succ n hq hidle]
      exact ih s.seqStep (s.seqStep_quiet.trans hq) (Nat.le_of_lt_succ ((s.transitionsLeft_seqStep hidle).trans_le hn))

end Progress

section Refused

variable (s : State)

theorem State.popDraw_refuse : s.refuse.popDraw = s.popDraw.refuse := by
  unfold State.popDraw
  rw [s.refuse_line]
  cases s.line <;> rfl

/-- A failure writes its own status. -/
theorem State.fail_refuse (x : Status) : s.refuse.fail x = s.fail x := rfl

/-- A read ends the transaction with a status of its own, or does not touch `status` (R69, R131). -/
theorem State.classify_refuse (h : s.chState ≠ .idle) :
    s.refuse.classify = if s.classify.chState = .idle then s.classify else s.classify.refuse := by
  unfold State.classify
  rw [s.refuse_rx]
  cases readClass s.rx with
  | empty => rfl
  | otherLed => rfl
  | startLed => rfl
  | fillerLed =>
    dsimp only
    rw [s.refuse_attempt]
    by_cases hbudget : s.attempt < MAX_ATTEMPTS
    · simp only [hbudget, if_true, h, if_false]
    · simp only [hbudget, if_false, State.fail_refuse, State.fail_chState, if_true]

theorem State.readStep_refuse (h : s.chState ≠ .idle) :
    s.refuse.readStep = if s.readStep.chState = .idle then s.readStep else s.readStep.refuse := by
  unfold State.readStep
  rw [s.refuse_attempt, s.popDraw_refuse]
  split
  · exact State.classify_refuse (s.popDraw.lineRead s.nextDraw) (by simpa using h)
  · rfl

theorem State.acceptResponse_refuse : s.refuse.acceptResponse = s.acceptResponse := by
  unfold State.acceptResponse
  rw [s.refuse_req]
  cases s.req.points <;> rfl

/-- The check writes a status whatever it finds (R138). -/
theorem State.checkStep_refuse : s.refuse.checkStep = s.checkStep := by
  rcases Nat.lt_or_ge s.rx.length 6 with hshort | hsix
  · rw [s.checkStep_short hshort, s.refuse.checkStep_short hshort]
    rfl
  · by_cases hcrc : crc16 (checksumRegion s.rx) = checksumField s.rx
    · rw [s.checkStep_good hsix hcrc, s.refuse.checkStep_good hsix hcrc]
      exact State.acceptResponse_refuse { s with crcRem := crc16 (checksumRegion s.rx) }
    · rw [s.checkStep_bad hsix hcrc, s.refuse.checkStep_bad hsix hcrc]
      rfl

/-- A transition of a transaction in progress carries a refusal along, or ends with a status of its own (R131, R161). -/
theorem State.seqStep_refuse (h : s.chState ≠ .idle) :
    s.refuse.seqStep = if s.seqStep.chState = .idle then s.seqStep else s.seqStep.refuse := by
  unfold State.seqStep
  rw [s.refuse_chState]
  cases hc : s.chState with
  | idle => exact absurd hc h
  | drain => rfl
  | settle => rfl
  | tx => rfl
  | rx => exact s.readStep_refuse h
  | check => simp only [State.checkStep_refuse, State.checkStep_chState, if_true]

/-- A transaction that reaches its end forgets a refusal that it has met (R49). -/
theorem State.runSequencer_refuse (n : Nat) (h : s.chState ≠ .idle) (hq : s.quiet = true)
    (hend : (State.runSequencer n s).chState = .idle) :
    State.runSequencer n s.refuse = State.runSequencer n s := by
  induction n generalizing s with
  | zero => exact absurd hend h
  | succ n ih =>
    rw [s.runSequencer_succ n hq h] at hend ⊢
    rw [s.refuse.runSequencer_succ n hq h, s.seqStep_refuse h]
    split
    · rfl
    · exact ih s.seqStep ‹_› (s.seqStep_quiet.trans hq) hend

/-- A step into which nothing falls ends as if the transaction in progress had met no refusal. -/
theorem step_refuse (h : s.chState ≠ .idle) (hq : s.quiet = true) : step s.refuse = step s := by
  rw [step_of_quiet s.refuse h hq, step_of_quiet s h hq,
    s.runSequencer_refuse _ h hq (s.runSequencer_ends _ hq s.transitionsLeft_le)]

/-- The transmission ends alike whatever part of the request has been written (R134; log 14). -/
theorem step_writeUpTo (k : Nat) (h : s.chState ≠ .idle) (hq : s.quiet = true) : step (s.writeUpTo k) = step s := by
  by_cases htx : s.chState = .tx
  · have hq' : (s.writeUpTo k).quiet = true := (State.quiet_congr _ s (s.writeUpTo_inbox k)).trans hq
    have h' : (s.writeUpTo k).chState ≠ .idle := by rwa [s.writeUpTo_chState k]
    have next : (s.writeUpTo k).seqStep = s.seqStep := by
      simp only [State.seqStep, State.writeUpTo_chState, htx]
      exact s.transmitStep_writeUpTo k
    rw [step_of_quiet _ h' hq', step_of_quiet s h hq, maxTransitions, State.runSequencer_succ _ _ hq' h',
      s.runSequencer_succ _ hq h, next]
  · rw [s.writeUpTo_not_tx k htx]

end Refused

/-- Settles O38: the overlapping operation is only refused (`exec_busy`). -/
theorem overlapDoesNoHarm : Obligations.OverlapDoesNoHarm :=
  ⟨fun i s hi h hq => ⟨s.refuse, exec_busy i s hi h, rfl, step_refuse s h hq⟩, fun s k h hq => step_writeUpTo s k h hq⟩

end Sys2Proof.Machine
end

section
/-! SUPPORT. The kinds of a read in the statements against the classes in the model, and what RX makes of a read (R69, R131, R133,
R137 to R140). -/

namespace Sys2Proof.Machine

open Sys2Proof.Spec

/-- A candidate whose checksum the check accepts (R138, R140). -/
def GoodCandidate (r : List Byte) : Prop := 6 ≤ r.length ∧ crc16 (checksumRegion r) = checksumField r

section Kinds

variable (b : Byte) (rest : List Byte)

theorem readKind_nil : readKind [] = .empty := rfl

theorem readKind_filler : readKind (FILLER :: rest) = .filler := rfl

theorem readKind_other (h : b ≠ FILLER) (h' : b ≠ START) : readKind (b :: rest) = .other := by
  have hfirst : (b :: rest).head? ≠ some 0x00 ∧ (b :: rest).head? ≠ some 0x0A := by simpa using ⟨h, h'⟩
  rw [readKind, if_neg (List.cons_ne_nil b rest), if_neg hfirst.1, if_pos hfirst.2]

theorem readClass_filler : readClass (FILLER :: rest) = .fillerLed := rfl

theorem readClass_other (h : b ≠ FILLER) (h' : b ≠ START) : readClass (b :: rest) = .otherLed := by
  rw [readClass_cons, if_neg h, if_neg h']

theorem readClass_start : readClass (START :: rest) = .startLed := rfl

theorem readKind_good (h : GoodCandidate (START :: rest)) : readKind (START :: rest) = .good := if_pos h

theorem readKind_bad (h : ¬ GoodCandidate (START :: rest)) : readKind (START :: rest) = .bad := if_neg h

/-- The first byte of a read, in the cases of R69. -/
theorem read_cases (r : List Byte) :
    r = [] ∨ (∃ rest, r = FILLER :: rest) ∨ (∃ b rest, r = b :: rest ∧ b ≠ FILLER ∧ b ≠ START) ∨
      ∃ rest, r = START :: rest := by
  cases r with
  | nil => exact .inl rfl
  | cons b rest =>
    by_cases hf : b = FILLER
    · exact .inr (.inl ⟨rest, by rw [hf]⟩)
    · by_cases hs : b = START
      · exact .inr (.inr (.inr ⟨rest, by rw [hs]⟩))
      · exact .inr (.inr (.inl ⟨b, rest, rfl, hf, hs⟩))

end Kinds

section Awaited

variable (s : State)

/-- The statements' RX, in the model's terms: the read, and its consequence by kind. -/
theorem afterRead_eq (d : LineDraw) : afterRead s d =
    match readKind (s.lineRead d).rx with
    | .empty => ((s.lineRead d).emit .noResponse).fail .noResponse
    | .filler => if s.attempt = 0 then s.lineRead d else (s.lineRead d).fail .resyncExhausted
    | .other => ((s.lineRead d).emit (.framingError (s.lineRead d).rx)).fail .framingError
    | .bad => { s.lineRead d with chState := .check }
    | .good => { s.lineRead d with chState := .check } := rfl

theorem afterRead_empty (d : LineDraw) (h : (s.lineRead d).rx = []) :
    afterRead s d = ((s.lineRead d).emit .noResponse).fail .noResponse := by
  rw [afterRead_eq, h]
  rfl

theorem afterRead_filler (d : LineDraw) (rest : List Byte) (h : (s.lineRead d).rx = FILLER :: rest) :
    afterRead s d = if s.attempt = 0 then s.lineRead d else (s.lineRead d).fail .resyncExhausted := by
  rw [afterRead_eq, h]
  rfl

theorem afterRead_other (d : LineDraw) (b : Byte) (rest : List Byte) (h : (s.lineRead d).rx = b :: rest)
    (hf : b ≠ FILLER) (hs : b ≠ START) :
    afterRead s d = ((s.lineRead d).emit (.framingError (b :: rest))).fail .framingError := by
  rw [afterRead_eq, h, readKind_other b rest hf hs]

theorem afterRead_start (d : LineDraw) (rest : List Byte) (h : (s.lineRead d).rx = START :: rest) :
    afterRead s d = { s.lineRead d with chState := .check } := by
  rw [afterRead_eq, h]
  by_cases hgood : GoodCandidate (START :: rest)
  · rw [readKind_good rest hgood]
  · rw [readKind_bad rest hgood]

/-- A read within the budget has the consequence that the statements spell out (R69, R131, R137, R139). -/
theorem State.classify_lineRead (d : LineDraw) (h : s.attempt < 2) : (s.lineRead d).classify = afterRead s d := by
  unfold State.classify
  rcases read_cases (s.lineRead d).rx with hr | ⟨rest, hr⟩ | ⟨b, rest, hr, hf, hs⟩ | ⟨rest, hr⟩
  · rw [afterRead_empty s d hr, hr, readClass_nil]
  · rw [afterRead_filler s d rest hr, hr, readClass_filler]
    by_cases hfirst : s.attempt = 0
    · simp [hfirst]
    · have hlast : s.attempt = 1 := by omega
      simp [hlast]
  · rw [afterRead_other s d b rest hr hf hs, hr, readClass_other b rest hf hs]
  · rw [afterRead_start s d rest hr, hr, readClass_start, ← hr]

/-- RX with an attempt left uses one draw (R131, R133). -/
theorem State.readStep_eq_afterRead (h : s.attempt < 2) : s.readStep = afterRead s.popDraw s.nextDraw :=
  (if_pos h).trans (s.popDraw.classify_lineRead s.nextDraw (by rwa [s.popDraw_attempt]))

/-- A read row goes behind the script, so the awaited read takes the script's first draw, or the row where there is none (log 10). -/
theorem State.lineReads_rx (bs : List Byte) (hrx : s.chState = .rx) (h : s.attempt < 2) :
    s.lineReads bs = readReturns s bs := by
  have hread : s.lineReads bs =
      State.readStep { s with line := s.line ++ [{ arrive := bs, take := bs.length }] } := if_pos hrx
  rw [hread, State.readStep_eq_afterRead { s with line := s.line ++ [{ arrive := bs, take := bs.length }] } h, readReturns]
  cases hl : s.line with
  | nil =>
    have hs : ({ s with line := [] } : State) = s := by rw [← hl]
    exact congrArg (afterRead · _) hs
  | cons d ds => rfl

/-- A read that finds nothing queued and brings no more than `exp_len` bytes returns them (R133). -/
theorem State.lineRead_whole (bs : List Byte) (hq : s.rxq = []) (hlen : bs.length ≤ s.expLen.toNat) :
    s.lineRead { arrive := bs, take := bs.length } = { s with attempt := s.attempt + 1, rx := bs } := by
  have htake : min bs.length s.expLen.toNat = bs.length := Nat.min_eq_left hlen
  have hrx : lineReadResult [] { arrive := bs, take := bs.length } s.expLen.toNat = bs :=
    lineReadResult_whole bs bs.length s.expLen.toNat le_rfl hlen
  have hrest : lineReadRest s.params.rxqCap [] { arrive := bs, take := bs.length } s.expLen.toNat = [] := by
    cases hcap : s.params.rxqCap <;> simp [lineReadRest, clip, htake]
  unfold State.lineRead
  rw [hq, hrx, hrest, ← hq]

theorem State.lineRead_whole_rx (bs : List Byte) (hq : s.rxq = []) (hlen : bs.length ≤ s.expLen.toNat) :
    (s.lineRead { arrive := bs, take := bs.length }).rx = bs :=
  congrArg State.rx (s.lineRead_whole bs hq hlen)

end Awaited

/-- Settles O45: a read row makes the awaited read return (`State.lineReads_rx`), and the kind of the row's bytes decides. -/
theorem readClassConsequences : Obligations.ReadClassConsequences := by
  intro rest b s hrx hbudget
  have row : ∀ bs, Host.Outcome.next (s.lineReads bs) = (.next (readReturns s bs) : Host.Outcome State Fault Refusal) :=
    fun bs => congrArg Host.Outcome.next (s.lineReads_rx bs hrx hbudget)
  refine ⟨⟨row _, row _, row _, row _⟩, fun hline hq => ?_⟩
  have alone : ∀ bs t, afterRead s { arrive := bs, take := bs.length } = t →
      Host.Outcome.next (s.lineReads bs) = (.next t : Host.Outcome State Fault Refusal) := by
    intro bs t ht
    rw [row, readReturns, hline, ht]
  refine ⟨alone [] _ ?_, fun hlen => ⟨fun hfirst => alone _ _ ?_, fun hlast => alone _ _ ?_, fun hf hs => alone _ _ ?_,
    alone _ _ ?_⟩⟩
  · rw [afterRead_empty s _ rfl, s.lineRead_whole [] hq (Nat.zero_le _)]
    rfl
  · rw [afterRead_filler s _ rest (s.lineRead_whole_rx (FILLER :: rest) hq hlen),
      s.lineRead_whole (FILLER :: rest) hq hlen, if_pos hfirst, hfirst]
    rfl
  · rw [afterRead_filler s _ rest (s.lineRead_whole_rx (FILLER :: rest) hq hlen),
      s.lineRead_whole (FILLER :: rest) hq hlen, hlast]
    rfl
  · rw [afterRead_other s _ b rest (s.lineRead_whole_rx (b :: rest) hq hlen) hf hs,
      s.lineRead_whole (b :: rest) hq hlen]
    rfl
  · rw [afterRead_start s _ rest (s.lineRead_whole_rx (START :: rest) hq hlen),
      s.lineRead_whole (START :: rest) hq hlen]
    rfl

end Sys2Proof.Machine
end

section
/-! SUPPORT. How a transaction goes on from RX, whatever is queued there: its reads and its end, in the terms of the statements
(R130 to R140, R161). -/

namespace Sys2Proof.Machine

open Sys2Proof.Spec

/-- The status that a transaction ends with, by the kind of its last read (R140). -/
def lastStatus (k : ReadKind) : Status := (outcome .filler k).1

/-- R140's table says: a filler-led first read leads to a second one, any other is the last. -/
theorem outcome_eq (k k' : ReadKind) :
    outcome k k' = if k = .filler then (lastStatus k', 2) else (lastStatus k, 1) := by
  cases k with
  | filler => cases k' <;> rfl
  | _ => rfl

theorem readClass_eq_fillerLed_iff (r : List Byte) : readClass r = .fillerLed ↔ readKind r = .filler := by
  rcases read_cases r with rfl | ⟨rest, rfl⟩ | ⟨b, rest, rfl, hf, hs⟩ | ⟨rest, rfl⟩
  · rw [readClass_nil, readKind_nil]
    decide
  · rw [readClass_filler, readKind_filler]
    decide
  · rw [readClass_other b rest hf hs, readKind_other b rest hf hs]
    decide
  · rw [readClass_start]
    by_cases hgood : GoodCandidate (START :: rest)
    · rw [readKind_good rest hgood]
      decide
    · rw [readKind_bad rest hgood]
      decide

/-- The end of a transaction with `rx` its last read, by kind: status and results (R130, R140, R161), event (R72), and the
scratch remainder where the checksum of the read was evaluated (log 5). -/
def State.ended (s : State) : State :=
  { s with
    status := lastStatus (readKind s.rx)
    resBytes := if lastStatus (readKind s.rx) = .ok then s.rx else []
    resVals := if lastStatus (readKind s.rx) = .ok then s.resVals else []
    crcRem := if s.rx.head? = some START ∧ 6 ≤ s.rx.length then crc16 (checksumRegion s.rx) else s.crcRem
    diag := s.diag ++ readEvents s.rx
    chState := .idle }

/-- The operands of CH.TRANSACT in progress: no register decode follows (R130; log 15). -/
abbrev rawRequest (a f : Byte) (p : List Byte) : Request := { address := a, functionCode := f, payload := p, points := none }

section Conclude

variable (s : State)

/-- A last read with another status than OK is a failure of R161, after its events. -/
theorem State.ended_of_failure (x : Status) (events : List Diag) (c : Word) (hx : x ≠ .ok)
    (hstatus : lastStatus (readKind s.rx) = x) (hevents : readEvents s.rx = events)
    (hscratch : (if s.rx.head? = some START ∧ 6 ≤ s.rx.length then crc16 (checksumRegion s.rx) else s.crcRem) = c) :
    s.ended = State.fail { s with crcRem := c, diag := s.diag ++ events } x := by
  simp only [State.ended, hstatus, hevents, hscratch, hx, if_false, State.fail]

theorem readEvents_bad (r : List Byte) (h : readKind r = .bad) : readEvents r =
    [.checksumMismatch (if r.length < 6 then none else some (crc16 (checksumRegion r), checksumField r))] := by
  rw [readEvents, h]
  rfl

/-- The check of a START-led candidate (R138, R140). -/
theorem State.checkStep_eq_ended (hpoints : s.req.points = none) (rest : List Byte) (hr : s.rx = START :: rest) :
    s.checkStep = s.ended := by
  have hstart : s.rx.head? = some START := by rw [hr]; rfl
  have bad : ¬ GoodCandidate s.rx → readKind s.rx = .bad := by rw [hr]; exact readKind_bad rest
  have good : GoodCandidate s.rx → readKind s.rx = .good := by rw [hr]; exact readKind_good rest
  rcases Nat.lt_or_ge s.rx.length 6 with hshort | hsix
  · have hkind := bad fun hg => Nat.not_le.2 hshort hg.1
    rw [s.checkStep_short hshort,
      s.ended_of_failure .checksumMismatch [.checksumMismatch none] s.crcRem (by decide) (by rw [hkind]; rfl)
        (by rw [readEvents_bad _ hkind, if_pos hshort]) (if_neg fun h => Nat.not_le.2 hshort h.2)]
    rfl
  · by_cases hcrc : crc16 (checksumRegion s.rx) = checksumField s.rx
    · have hkind := good ⟨hsix, hcrc⟩
      have hok : lastStatus .good = .ok := rfl
      have hevents : readEvents s.rx = [] := by rw [readEvents, hkind]
      rw [s.checkStep_good hsix hcrc, State.acceptResponse]
      simp only [hpoints, State.ended, hkind, hok, hstart, hsix, hevents, and_self, if_true, List.append_nil]
    · have hkind := bad fun hg => hcrc hg.2
      rw [s.checkStep_bad hsix hcrc,
        s.ended_of_failure .checksumMismatch
          [.checksumMismatch (some (crc16 (checksumRegion s.rx), checksumField s.rx))] (crc16 (checksumRegion s.rx))
          (by decide) (by rw [hkind]; rfl) (by rw [readEvents_bad _ hkind, if_neg (Nat.not_lt.2 hsix)])
          (if_pos ⟨hstart, hsix⟩)]
      rfl

/-- CH.TRANSACT ends with its last read as R140 says. -/
theorem State.conclude_eq_ended (hpoints : s.req.points = none) : s.conclude = s.ended := by
  have unchecked : s.rx.head? ≠ some START →
      (if s.rx.head? = some START ∧ 6 ≤ s.rx.length then crc16 (checksumRegion s.rx) else s.crcRem) = s.crcRem :=
    fun h => if_neg fun h' => h h'.1
  unfold State.conclude
  rcases read_cases s.rx with hr | ⟨rest, hr⟩ | ⟨b, rest, hr, hf, hs⟩ | ⟨rest, hr⟩
  · have hclass : readClass s.rx = .empty := by rw [hr, readClass_nil]
    rw [hclass, s.ended_of_failure .noResponse [.noResponse] s.crcRem (by decide) (by rw [hr]; rfl) (by rw [hr]; rfl)
      (unchecked (by simp [hr]))]
    rfl
  · have hclass : readClass s.rx = .fillerLed := by rw [hr, readClass_filler]
    rw [hclass, s.ended_of_failure .resyncExhausted [] s.crcRem (by decide) (by rw [hr]; rfl) (by rw [hr]; rfl)
      (unchecked (by simp [hr, FILLER, START])), List.append_nil]
  · have hclass : readClass s.rx = .otherLed := by rw [hr, readClass_other b rest hf hs]
    have hkind : readKind s.rx = .other := by rw [hr, readKind_other b rest hf hs]
    rw [hclass, s.ended_of_failure .framingError [.framingError s.rx] s.crcRem (by decide) (by rw [hkind]; rfl)
      (by rw [readEvents, hkind]) (unchecked (by simpa [hr] using hs))]
    rfl
  · have hclass : readClass s.rx = .startLed := by rw [hr, readClass_start]
    rw [hclass]
    exact State.checkStep_eq_ended { s with chState := .check } hpoints rest hr

end Conclude

/-- A transaction of `s` that waits in RX with `q` queued, over the state `w` that its draws have left: `k` reads have been made and
the last one took `rx` (R23, R25, R134). -/
def State.inRx (s w : State) (r : Request) (n : BitVec 18) (k : Nat) (rx q : List Byte) : State :=
  { w with
    req := r, written := r.bytes.length, expLen := n, attempt := k, rx := rx, rxq := q, chState := .rx
    sent := s.sent ++ r.bytes
    crcRem := crc16 (frameBody r.address r.functionCode r.payload)
    diag := s.drainStep.diag }

section Reads

variable (s w : State) (r : Request) (n : BitVec 18) (k : Nat) (rx q : List Byte)

theorem State.requestSent_eq_inRx : s.requestSent r n = s.inRx s r n 0 [] [] := rfl

theorem State.lineAppend_requestSent (bs : List Byte) :
    (s.requestSent r n).lineAppend bs = s.inRx s r n 0 [] (clip s.params.rxqCap bs) := rfl

theorem State.popDraw_inRx : (s.inRx w r n k rx q).popDraw = s.inRx w.popDraw r n k rx q := by
  have hline : (s.inRx w r n k rx q).line = w.line := rfl
  unfold State.popDraw
  rw [hline]
  cases w.line <;> rfl

/-- An attempt: the read that the statements spell out, with one draw used (R133). -/
theorem State.lineRead_inRx :
    (s.inRx w r n k rx q).popDraw.lineRead (s.inRx w r n k rx q).nextDraw =
      s.inRx w.popDraw r n (k + 1) (read1 q w n.toNat) (rest1 q w n.toNat) := by
  rw [State.popDraw_inRx, rest1, ← w.popDraw_params]
  rfl

theorem read1_rest1 (m : Nat) : read1 (rest1 q s m) s.popDraw m = read2 q s m := rfl

theorem rest1_rest1 (m : Nat) : rest1 (rest1 q s m) s.popDraw m = rest2 q s m := by
  rw [rest1, s.popDraw_params, rest2]

end Reads

section AfterTransact

variable (q : List Byte) (s : State) (a f : Byte) (p : List Byte) (n : BitVec 18)

/-- The DISCARDED event of the drain stands before the events of the reads (R132). -/
theorem State.drainStep_diag_append (events : List Diag) :
    s.drainStep.diag ++ events = s.diag ++ ((if s.rxq = [] then [] else [.discarded s.rxq]) ++ events) := by
  rw [s.drainStep_diag]
  split <;> simp

/-- A transaction that reads once (R136, R140). -/
theorem afterTransact_once (h : readKind (read1 q s n.toNat) ≠ .filler) :
    afterTransact q s a f p n = (s.inRx s.popDraw (rawRequest a f p) n 1 (read1 q s n.toNat) (rest1 q s n.toNat)).ended := by
  simp only [afterTransact, readsTwice, lastRead, h, decide_false, if_false, Bool.false_eq_true, outcome_eq, State.ended,
    State.inRx, State.drainStep_diag_append, State.popDraw_resVals]
  rfl

/-- A transaction that reads twice (R136, R140). -/
theorem afterTransact_twice (h : readKind (read1 q s n.toNat) = .filler) :
    afterTransact q s a f p n =
      (s.inRx s.popDraw.popDraw (rawRequest a f p) n 2 (read2 q s n.toNat) (rest2 q s n.toNat)).ended := by
  simp only [afterTransact, readsTwice, lastRead, h, decide_true, if_true, outcome_eq, State.ended,
    State.inRx, State.drainStep_diag_append, State.popDraw_resVals]
  rfl

/-- CH.TRANSACT that comes to RX with `q` queued ends as the statements say (R130 to R142, R161). -/
theorem State.runSequencer_inRx (m : Nat) (hq : s.quiet = true) :
    State.runSequencer (m + 3) (s.inRx s (rawRequest a f p) n 0 [] q) = afterTransact q s a f p n := by
  rw [State.runSequencer_rx m _ (by exact hq) rfl rfl]
  dsimp only
  rw [State.lineRead_inRx, State.lineRead_inRx, read1_rest1, rest1_rest1]
  by_cases htwice : readKind (read1 q s n.toNat) = .filler
  · rw [afterTransact_twice q s a f p n htwice]
    exact (if_pos ((readClass_eq_fillerLed_iff _).2 htwice)).trans (State.conclude_eq_ended _ rfl)
  · rw [afterTransact_once q s a f p n htwice]
    exact (if_neg fun h => htwice ((readClass_eq_fillerLed_iff _).1 h)).trans (State.conclude_eq_ended _ rfl)

/-- CH.TRANSACT that nothing falls into comes to RX with nothing queued, for the drain has emptied the queue (R132). -/
theorem State.transact_eq_afterTransact (hq : s.quiet = true) :
    s.transact (rawRequest a f p) n = afterTransact [] s a f p n :=
  calc s.transact (rawRequest a f p) n
    _ = State.runSequencer 3 (s.requestSent (rawRequest a f p) n) :=
        (s.transact_quiet (rawRequest a f p) n hq).trans
          (State.runSequencer_rx 0 (s.requestSent (rawRequest a f p) n) hq rfl rfl).symm
    _ = State.runSequencer 3 (s.inRx s (rawRequest a f p) n 0 [] []) := by rw [State.requestSent_eq_inRx]
    _ = afterTransact [] s a f p n := State.runSequencer_inRx [] s a f p n 0 hq

end AfterTransact

end Sys2Proof.Machine
end

section
/-! SUPPORT. A transaction into which bytes of the line fall: where it stops, and how it goes on (R50, R132, R134, R142, R191; logs
12, 14). -/

namespace Sys2Proof.Machine

open Sys2Proof.Spec

/-- The state in which a transaction of `s` reaches `phase`, from DRAIN to RX, with nothing written of the request before the end
of TX (R131). -/
def State.reaches (s : State) (r : Request) (n : BitVec 18) (phase : ChState) : State :=
  match phase with
  | .settle => (s.startTransaction r n).drainStep
  | .tx => (s.startTransaction r n).drainStep.settleStep
  | .rx => s.requestSent r n
  | _ => s.startTransaction r n

/-- The phases of a transaction between the drain and the first read (R132, R133). -/
def ChState.AfterDrain (phase : ChState) : Prop := phase = .settle ∨ phase = .tx ∨ phase = .rx

section Reaches

variable (s : State) (r : Request) (n : BitVec 18) (phase : ChState)

theorem State.reaches_chState (h : phase = .drain ∨ phase.AfterDrain) : (s.reaches r n phase).chState = phase := by
  rcases h with rfl | rfl | rfl | rfl <;> rfl

theorem State.reaches_rxq (h : phase.AfterDrain) : (s.reaches r n phase).rxq = [] := by
  rcases h with rfl | rfl | rfl <;> rfl

theorem State.reaches_params : (s.reaches r n phase).params = s.params := by cases phase <;> rfl

theorem State.reaches_inbox : (s.reaches r n phase).inbox = s.inbox := by cases phase <;> rfl

theorem State.reaches_withInbox (acts : List Event) :
    { s.reaches r n phase with inbox := acts } = State.reaches { s with inbox := acts } r n phase := by
  cases phase <;> rfl

/-- A transaction stops in the phase into which the next act falls (log 12). -/
theorem State.transact_stops (e : Event) (acts : List Event) (hin : s.inbox = e :: acts)
    (h : e.phase = .drain ∨ e.phase.AfterDrain) : s.transact r n = s.reaches r n e.phase := by
  have next : ∀ (m : Nat) (t : State), t.inbox = e :: acts → t.chState ≠ .idle → t.chState ≠ e.phase →
      State.runSequencer (m + 1) t = State.runSequencer m t.seqStep := fun m t ht hidle hphase =>
    t.runSequencer_of_not_interrupted m hidle (by simpa [t.interrupted_cons e acts ht] using hphase.symm)
  have stop : ∀ m : Nat, State.runSequencer m (s.reaches r n e.phase) = s.reaches r n e.phase := fun m =>
    State.runSequencer_of_interrupted m _ (by
      rw [State.interrupted_cons _ e acts ((s.reaches_inbox r n e.phase).trans hin), s.reaches_chState r n e.phase h,
        decide_eq_true rfl])
  have drained : e.phase ≠ .drain → s.transact r n = State.runSequencer 5 (s.startTransaction r n).drainStep := fun hne =>
    next 5 (s.startTransaction r n) hin (by simp) hne.symm
  have settled : e.phase ≠ .drain → e.phase ≠ .settle →
      s.transact r n = State.runSequencer 4 (s.startTransaction r n).drainStep.settleStep := fun hd hs =>
    (drained hd).trans (next 4 (s.startTransaction r n).drainStep hin (by simp) hs.symm)
  rcases h with h | h | h | h <;> rw [h] at stop next drained settled ⊢
  · exact stop 6
  · rw [drained nofun]
    exact stop 5
  · rw [settled nofun nofun]
    exact stop 4
  · rw [settled nofun nofun]
    exact (next 3 (s.startTransaction r n).drainStep.settleStep hin (by simp) (by simp)).trans (stop 3)

end Reaches

section LateBytes

variable (s : State) (a f : Byte) (p bs : List Byte) (n : BitVec 18) (phase : ChState) (w : Nat)

/-- Bytes that have fallen in before the first read, whatever part of the request was written then, are what RX finds queued
(R50, R134, R142). -/
theorem State.runSequencer_lateBytes (h : phase.AfterDrain) (hq : s.quiet = true) :
    State.runSequencer maxTransitions (((s.reaches (rawRequest a f p) n phase).writeUpTo w).lineAppend bs) =
      afterTransact (clip s.params.rxqCap bs) s a f p n := by
  have rx : ∀ m, State.runSequencer (m + 3) (State.lineAppend (s.requestSent (rawRequest a f p) n) bs) =
      afterTransact (clip s.params.rxqCap bs) s a f p n := fun m => by
    rw [State.lineAppend_requestSent, State.runSequencer_inRx _ s a f p n m hq]
  have tx : ∀ (m : Nat) (t : State), t.chState = .tx → t.inbox = s.inbox →
      State.runSequencer (m + 1) t = State.runSequencer m t.transmitStep := fun m t htx ht => by
    rw [t.runSequencer_succ m ((State.quiet_congr t s ht).trans hq) (by simp [htx]), State.seqStep, htx]
  rcases h with rfl | rfl | rfl
  · rw [State.writeUpTo_not_tx _ w (by simp [State.reaches])]
    calc State.runSequencer 6 ((s.reaches (rawRequest a f p) n .settle).lineAppend bs)
      _ = State.runSequencer 5 ((s.reaches (rawRequest a f p) n .tx).lineAppend bs) :=
          State.runSequencer_succ 5 ((s.reaches (rawRequest a f p) n .settle).lineAppend bs) hq nofun
      _ = State.runSequencer 4 ((s.requestSent (rawRequest a f p) n).lineAppend bs) := tx 4 _ rfl rfl
      _ = _ := rx 1
  · have sent : (((s.reaches (rawRequest a f p) n .tx).writeUpTo w).lineAppend bs).transmitStep =
        (s.requestSent (rawRequest a f p) n).lineAppend bs :=
      congrArg (State.lineAppend · bs) (State.transmitStep_writeUpTo (s.reaches (rawRequest a f p) n .tx) w)
    rw [maxTransitions, tx 5 _ (by simp [State.reaches]) (by simp [State.reaches]), sent]
    exact rx 2
  · rw [State.writeUpTo_not_tx _ w (by simp [State.reaches, State.requestSent])]
    exact rx 3

/-- The transaction that has stopped takes the bytes when its next act brings them (R50; logs 12, 14). -/
theorem step_reaches_line (r : Request) (acts : List Event) (h : phase = .drain ∨ phase.AfterDrain)
    (hin : s.inbox = { phase := phase, act := .line bs, written := w } :: acts) :
    step (s.reaches r n phase) =
      .next (((State.reaches { s with inbox := acts } r n phase).writeUpTo w).lineAppend bs) := by
  rw [step_of_taken _ _ acts ((s.reaches_inbox r n phase).trans hin) (.inr (s.reaches_chState r n phase h).symm), perform_line,
    s.reaches_withInbox]

end LateBytes

/-- Settles O28: the transaction stops in the phase (`State.transact_stops`), takes the bytes (`step_reaches_line`), and goes on
with them queued before its first read (`State.runSequencer_lateBytes`), or before its drain. -/
theorem lateBytesHeadTheFirstRead : Obligations.LateBytesHeadTheFirstRead := by
  intro a f p bs n phase w acts s hidle hn hin hq
  let r := rawRequest a f p
  let s' : State := { s with inbox := acts }
  let u := ((s'.reaches r n phase).writeUpTo w).lineAppend bs
  have stops (h : phase = .drain ∨ phase.AfterDrain) : exec (.chTransact a f p n) s = .next (s.reaches r n phase) :=
    (exec_chTransact_idle a f p n s hidle hn).trans (congrArg Host.Outcome.next (s.transact_stops r n _ acts hin h))
  have waits (h : phase = .drain ∨ phase.AfterDrain) : u.chState = phase :=
    (State.writeUpTo_chState _ w).trans (s'.reaches_chState r n phase h)
  have queued : u.rxq = clip s.params.rxqCap ((s'.reaches r n phase).rxq ++ bs) := by
    simp [u, s', State.lineAppend, State.reaches_params]
  have goesOn (h : phase = .drain ∨ phase.AfterDrain) (hne : phase ≠ .idle) :
      step u = .next (State.runSequencer maxTransitions u) :=
    step_of_quiet u (by rwa [waits h])
      ((State.quiet_congr u s' ((State.writeUpTo_inbox _ w).trans (s'.reaches_inbox r n phase))).trans hq)
  constructor
  · intro h
    refine ⟨_, u, stops (.inr h), s.reaches_chState r n phase (.inr h), s.reaches_rxq r n phase h,
      step_reaches_line s bs n phase w r acts (.inr h) hin, ?_, waits (.inr h), ?_⟩
    · rw [queued, s'.reaches_rxq r n phase h, List.nil_append]
    · rw [goesOn (.inr h) (by rintro rfl; simp at h)]
      exact congrArg Host.Outcome.next (s'.runSequencer_lateBytes a f p bs n phase w h hq)
  · rintro rfl
    refine ⟨_, u, stops (.inl rfl), rfl, rfl, step_reaches_line s bs n .drain w r acts (.inl rfl) hin, queued,
      waits (.inl rfl), ?_⟩
    have restarted : u = State.startTransaction { s' with rxq := clip s.params.rxqCap (s.rxq ++ bs) } r n :=
      congrArg (State.lineAppend · bs) (State.writeUpTo_not_tx (s'.startTransaction r n) w nofun)
    rw [goesOn (.inl rfl) nofun, restarted]
    exact congrArg Host.Outcome.next
      (State.transact_eq_afterTransact { s' with rxq := clip s.params.rxqCap (s.rxq ++ bs) } a f p n hq)

end Sys2Proof.Machine
end

section
/-! SUPPORT. Decoding inverts encoding for each kind of encoded form, and answers well-formed instructions only (R60, R62, R63, R66,
R69, R70). -/

namespace Sys2Proof

open Machine

/-- The bytes of a request are decoded to it (R62). -/
theorem decodeRequest_encodeFrame (a : Byte) (start n : Word) :
    decodeRequest (encodeFrame a FC_READ_HOLDING (requestPayload start n)) = .ok (.requestReadHolding a start n) := by
  have hcheck : checkWire (encodeFrame a FC_READ_HOLDING (requestPayload start n)) = .ok () := checkWire_wrap ..
  have hlast := byteAt_wrap_last (frameBody a FC_READ_HOLDING (requestPayload start n)) END
  rw [← encodeFrame_eq_wrap] at hlast
  have hlen : (encodeFrame a FC_READ_HOLDING (requestPayload start n)).length = 10 := rfl
  have hcode : byteAt (encodeFrame a FC_READ_HOLDING (requestPayload start n)) 2 = FC_READ_HOLDING := rfl
  have hfields : u16be (start.extractLsb' 8 8) (start.extractLsb' 0 8) = start ∧
      u16be (n.extractLsb' 8 8) (n.extractLsb' 0 8) = n := ⟨u16be_beBytes start, u16be_beBytes n⟩
  unfold decodeRequest
  rw [hcheck]
  dsimp only
  rw [if_neg (not_not.2 hlen), if_neg (not_not.2 hlast), if_neg (not_not.2 hcode)]
  exact congrArg Except.ok (congrArg₂ (Instr.requestReadHolding a) hfields.1 hfields.2)

/-- Byte 3 of a response is its byte count, where it has one (R63). -/
theorem byteAt_encodeResponse_byteCount (p : Params) (a f last : Byte) (bc : Option Byte) (regs : List Word)
    (hbc : bc.isSome = p.byteCountByte) :
    (if p.byteCountByte then some (byteAt (encodeResponse a f bc regs last) 3) else none) = bc := by
  rw [← hbc]
  cases bc <;> rfl

/-- The bytes of a response are decoded to it, whatever its last byte (R63, R141). -/
theorem decodeResponse_encodeResponse (p : Params) (a f last : Byte) (bc : Option Byte) (regs : List Word)
    (hbc : bc.isSome = p.byteCountByte) (hone : 1 ≤ regs.length) (hmax : regs.length ≤ 65535) :
    decodeResponse p (encodeResponse a f bc regs last) = .ok (.responseReadHolding a f bc regs last) := by
  have hcheck : checkWire (encodeResponse a f bc regs last) = .ok () := checkWire_wrap ..
  have hpayload : payloadOf (encodeResponse a f bc regs last) = bc.toList ++ registerBytes regs := payloadOf_wrap ..
  have hlast : byteAt (encodeResponse a f bc regs last) ((encodeResponse a f bc regs last).length - 1) = last :=
    byteAt_wrap_last ..
  unfold decodeResponse
  rw [hcheck]
  dsimp only
  rw [hpayload, ← byteCount_length p bc hbc, List.drop_left, registersOf_registerBytes, hlast,
    byteAt_encodeResponse_byteCount p a f last bc regs hbc, if_neg]
  · rfl
  · simp only [List.length_append, registerBytes_length]
    omega

theorem decodeFrame_of_encode (i : Instr) (bs : List Byte) (h : encode i = .wireFrame bs) : decodeFrame bs = .ok i := by
  cases i with
  | frame a f pl => cases h; exact decodeFrame_wrap a f pl
  | _ => cases h

theorem decodeRequest_of_encode (i : Instr) (bs : List Byte) (h : encode i = .wireRequest bs) :
    decodeRequest bs = .ok i := by
  cases i with
  | requestReadHolding a start n => cases h; exact decodeRequest_encodeFrame a start n
  | _ => cases h

theorem decodeResponse_of_encode (p : Params) (i : Instr) (bs : List Byte) (hwf : i.wellFormed p = true)
    (h : encode i = .wireResponse bs) : decodeResponse p bs = .ok i := by
  cases i with
  | responseReadHolding a f bc regs last =>
    cases h
    obtain ⟨⟨hbc, hone⟩, hmax⟩ : (bc.isSome = p.byteCountByte ∧ 1 ≤ regs.length) ∧ regs.length ≤ 65535 := by
      simpa [Instr.wellFormed] using hwf
    exact decodeResponse_encodeResponse p a f last bc regs hbc hone hmax
  | _ => cases h

/-- Settles O1: one lemma for each kind of encoded form. -/
theorem decodeEncodeRoundTrip : Obligations.DecodeEncodeRoundTrip := by
  intro p i hwf
  cases h : encode i with
  | command c => exact congrArg Except.ok (decodeCommand_of_encode p i c hwf h)
  | wireFrame bs => exact decodeFrame_of_encode i bs h
  | wireRequest bs => exact decodeRequest_of_encode i bs h
  | wireResponse bs => exact decodeResponse_of_encode p i bs hwf h
  | read bs => exact congrArg Except.ok (decodeRead_of_encode p i bs hwf h)

/-- A command whose op code is none of R66's is any_other_op with that code, whatever stands on its ports (R70 (a)). -/
theorem decodeCommand_of_unassigned (c : Command) (h : c.op ∉ opCodes) : decodeCommand c = .anyOtherOp c.op := by
  simp only [opCodes, List.mem_cons, List.not_mem_nil, or_false, not_or] at h
  simp only [decodeCommand, h, if_false]

/-- An assigned op code names an operation, whose operands are free; an unassigned one stays what it is (R66, R70 (a)). -/
theorem wellFormed_decodeCommand (p : Params) (c : Command) : (decodeCommand c).wellFormed p = true := by
  by_cases hassigned : c.op ∈ opCodes
  · simp only [opCodes, List.mem_cons, List.not_mem_nil, or_false] at hassigned
    rcases hassigned with h | h | h | h | h | h | h | h | h | h <;> simp [decodeCommand, h, Instr.wellFormed]
  · rw [decodeCommand_of_unassigned c hassigned, Instr.wellFormed]
    simpa using hassigned

/-- A read's class has the first byte that R69 asks for. -/
theorem wellFormed_decodeRead (p : Params) (bs : List Byte) : (decodeRead bs).wellFormed p = true := by
  rcases read_cases bs with rfl | ⟨rest, rfl⟩ | ⟨b, rest, rfl, hfiller, hstart⟩ | ⟨rest, rfl⟩
  · rfl
  · rfl
  · simp [decodeRead, hfiller, hstart, Instr.wellFormed]
  · rfl

/-- An instruction in a format that fixes no condition on its operands is well-formed (R60, R62). -/
theorem wellFormed_of_wireFrame (p : Params) (i : Instr) (bs : List Byte)
    (h : encode i = .wireFrame bs ∨ encode i = .wireRequest bs) : i.wellFormed p = true := by
  cases i with
  | frame a f pl => rfl
  | requestReadHolding a start n => rfl
  | _ => rcases h with h | h <;> cases h

/-- What is accepted as a response has the byte count RSP_HDR_BYTES asks for and 1 to 65535 registers (R63, R7). -/
theorem wellFormed_of_decodeResponse (p : Params) (bs : List Byte) (i : Instr) (h : decodeResponse p bs = .ok i) :
    i.wellFormed p = true := by
  unfold decodeResponse at h
  split at h
  · cases h
  · dsimp only at h
    split at h
    · cases h
    · rename_i hbad
      cases h
      simp only [not_or, not_lt] at hbad
      obtain ⟨-, -, hone, hmax⟩ := hbad
      have hcount : (if p.byteCountByte then some (byteAt bs 3) else none).isSome = p.byteCountByte := by
        cases p.byteCountByte <;> rfl
      simp [Instr.wellFormed, hcount, hone, hmax]

/-- Settles O2: one lemma for each kind of encoded form. -/
theorem decodedIsWellFormed : Obligations.DecodedIsWellFormed := by
  intro p e i h
  cases e with
  | command c => cases h; exact wellFormed_decodeCommand p c
  | wireFrame bs => exact wellFormed_of_wireFrame p i bs (.inl (encode_of_decodeFrame bs i h))
  | wireRequest bs => exact wellFormed_of_wireFrame p i bs (.inr (encode_of_decodeRequest bs i h))
  | wireResponse bs => exact wellFormed_of_decodeResponse p bs i h
  | read bs => cases h; exact wellFormed_decodeRead p bs

/-- No byte of a read is lost in its class (R69). -/
theorem encode_decodeRead (bs : List Byte) : encode (decodeRead bs) = .read bs := by
  rcases read_cases bs with rfl | ⟨rest, rfl⟩ | ⟨b, rest, rfl, hfiller, hstart⟩ | ⟨rest, rfl⟩
  · rfl
  · rfl
  · simp [decodeRead, hfiller, hstart, encode]
  · rfl

/-- Settles O3. -/
theorem wireDecodeIsExact : Obligations.WireDecodeIsExact := by
  intro p e i h hwire
  cases e with
  | command c => exact absurd rfl (hwire c)
  | wireFrame bs => exact encode_of_decodeFrame bs i h
  | wireRequest bs => exact encode_of_decodeRequest bs i h
  | wireResponse bs => exact encode_of_decodeResponse p bs i h
  | read bs => cases h; exact encode_decodeRead bs

/-- Settles O4: the op codes by the table; the frames are the encodings of what they stand for. -/
theorem writtenWordsDecode : Obligations.WrittenWordsDecode :=
  ⟨rfl, rfl, rfl, rfl, decodeFrame_of_encode (.frame 0xFF 0x01 []) _ (by decide +kernel),
    decodeRequest_of_encode (.requestReadHolding 3 0xD9 1) _ (by decide +kernel),
    decodeResponse_of_encode Params.default (.responseReadHolding 1 3 (some 2) [0x000D] 0x0D) _ rfl (by decide +kernel)⟩

/-- Settles O7. -/
theorem outcomeCodes : Obligations.OutcomeCodes := ⟨rfl, rfl, rfl, rfl, rfl, rfl, rfl⟩

end Sys2Proof
end

section
/-! SUPPORT. The operations of the Frame Codec in IDLE, and a frame's way through encoder and decoder (R101, R111 to R116). -/

namespace Sys2Proof.Machine

/-- The state after a search of the buffer: the decoder is what was found, and the results of FRM.TRY_DECODE follow from it (R34,
R112 to R115; logs 5, 7). -/
def State.searched (s : State) : State :=
  { s.withDecoder (scan s.buf) with
    resCrc := (scan s.buf).hdrCrc, crcRem := scanRemainder s.crcRem (scan s.buf), status := .ok }

section Codec

variable (s : State) (a f : Byte) (p data : List Byte)

theorem exec_frmEncode_idle (h : s.chState = .idle) : exec (.frmEncode a f p) s = .next
    { s with crcRem := crc16 (frameBody a f p), resBytes := encodeFrame a f p, status := .ok } :=
  congrArg Host.Outcome.next (s.whenIdle_idle _ h)

/-- FRM.FEED of bytes for which there is room (R111). -/
theorem exec_frmFeed_fits (h : s.chState = .idle) (hfits : fits s.params.bufCap (s.buf.length + data.length) = true) :
    exec (.frmFeed data) s = .next { s with buf := s.buf ++ data, status := .ok } :=
  congrArg Host.Outcome.next ((s.whenIdle_idle _ h).trans (if_pos hfits))

theorem State.searched_decoder : s.searched.decoder = scan s.buf := rfl

/-- FRM.TRY_DECODE (R112 to R115). -/
theorem exec_frmTryDecode_idle (h : s.chState = .idle) : exec .frmTryDecode s = .next s.searched :=
  congrArg Host.Outcome.next (s.whenIdle_idle _ h)

/-- FRM.PAYLOAD of a valid frame (R116). -/
theorem exec_frmPayload_valid (h : s.chState = .idle) (hvalid : s.valid = true) :
    exec .frmPayload s = .next { s with resBytes := slice s.buf 3 (s.hdrLen - 3), status := .ok } :=
  congrArg Host.Outcome.next ((s.whenIdle_idle _ h).trans (if_pos hvalid))

/-- A search finds a frame of the encoder that stands alone in the buffer (R101 (c)). -/
theorem scan_encodeFrame : scan (encodeFrame a f p) =
    { buf := encodeFrame a f p, hdrLen := p.length + 6, hdrAddr := a
      hdrCrc := crc16 (frameBody a f p), ready := true, valid := true } := by
  have hfound := scanFromStart_encodeFrame a f p [] List.not_mem_nil
  rw [List.append_nil] at hfound
  exact (scan_of_noise [] _ List.not_mem_nil).trans hfound

theorem encodeFrame_length : (encodeFrame a f p).length = p.length + 6 := by simp [encodeFrame]

theorem slice_encodeFrame : slice (encodeFrame a f p) 3 (p.length + 6 - 3) = p := by
  have hpayload : payloadOf (encodeFrame a f p) = p := payloadOf_wrap ..
  rwa [payloadOf, encodeFrame_length] at hpayload

end Codec

/-- Settles O22: the frame is fed whole, the search finds it (`scan_encodeFrame`), and its payload is cut out of the buffer. -/
theorem encodedFrameDecodes : Obligations.EncodedFrameDecodes := by
  intro a f p s hidle hbuf hfits
  let encoded : State :=
    { s with crcRem := crc16 (frameBody a f p), resBytes := encodeFrame a f p, status := .ok }
  let fed : State := { encoded with buf := encoded.buf ++ encodeFrame a f p, status := .ok }
  have hroom : fits encoded.params.bufCap (encoded.buf.length + (encodeFrame a f p).length) = true := by
    simpa [encoded, hbuf, encodeFrame_length] using hfits
  have hfed : fed.buf = encodeFrame a f p := by simp [fed, encoded, hbuf]
  have hfound := fed.searched_decoder
  rw [hfed, scan_encodeFrame] at hfound
  have hpayload : slice fed.searched.buf 3 (fed.searched.hdrLen - 3) = p :=
    (congrArg (fun d : Scan => slice d.buf 3 (d.hdrLen - 3)) hfound).trans (slice_encodeFrame a f p)
  exact ⟨fed.searched, _,
    ⟨encoded, exec_frmEncode_idle s a f p hidle, fed, exec_frmFeed_fits encoded _ hidle hroom, _,
      exec_frmTryDecode_idle fed hidle, rfl⟩,
    congrArg Scan.ready hfound, congrArg Scan.valid hfound, congrArg Scan.hdrAddr hfound, congrArg Scan.hdrLen hfound,
    exec_frmPayload_valid _ hidle (congrArg Scan.valid hfound), hpayload, rfl⟩

/-- Settles O15. -/
theorem frmEncodeResult : Obligations.FrmEncodeResult := fun a f p s hidle =>
  ⟨_, (exec_frmEncode_idle s a f p hidle).trans (by rw [encodeFrame_eq_bytes])⟩

end Sys2Proof.Machine
end

section
/-! SUPPORT. Operations that are refused before any line activity, and reads that are fixed in advance (R70, R130, R133, R150; logs
8, 10). -/

namespace Sys2Proof.Machine

/-- Settles O31. -/
theorem transactZeroLengthRefused : Obligations.TransactZeroLengthRefused :=
  fun a f p s hidle => exec_chTransact_zero a f p 0 s hidle rfl

/-- Settles O41: the count is tested before the transaction starts. -/
theorem regReadRefused : Obligations.RegReadRefused := fun _ _ _ s hidle hcount =>
  congrArg Host.Outcome.next ((s.whenIdle_idle _ hidle).trans (if_pos hcount))

/-- Settles O43. -/
theorem unassignedOpRefused : Obligations.UnassignedOpRefused := fun _ _ => rfl

/-- Where no read is awaited, a read row is a draw behind the line's script (log 10). -/
theorem State.lineReads_not_rx (s : State) (bs : List Byte) (h : s.chState ≠ .rx) :
    s.lineReads bs = { s with line := s.line ++ [{ arrive := bs, take := bs.length }] } := if_neg h

/-- Settles O46: each row is its bytes. -/
theorem readRowsFixLaterReads : Obligations.ReadRowsFixLaterReads := by
  intro rest b s hrx
  have row : ∀ bs, Host.Outcome.next (s.lineReads bs) =
      (.next { s with line := s.line ++ [{ arrive := bs, take := bs.length }] } : Host.Outcome State Fault Refusal) :=
    fun bs => congrArg Host.Outcome.next (s.lineReads_not_rx bs hrx)
  exact ⟨row [], row (FILLER :: rest), row (b :: rest), row (START :: rest)⟩

end Sys2Proof.Machine
end

section
/-! SUPPORT. CH.TRANSACT as a whole, and REG.READ as CH.TRANSACT followed by the register decode (R73, R130, R150 to R152). -/

namespace Sys2Proof.Machine

open Sys2Proof.Spec

/-- Settles O27: the accepted transaction, by `State.transact_eq_afterTransact`. -/
theorem transactWholeState : Obligations.TransactWholeState := fun a f p n s hidle hq hn =>
  (exec_chTransact_idle a f p n s hidle hn).trans (congrArg Host.Outcome.next (State.transact_eq_afterTransact s a f p n hq))

theorem byteAt_drop (s : List Byte) (k i : Nat) : byteAt (s.drop k) i = byteAt s (k + i) := by
  simp [byteAt, List.getD]

/-- Register data of `k` registers is `k` big-endian pairs in order (R43, R152). -/
theorem registersOf_eq_map (k : Nat) (bs : List Byte) (h : bs.length = 2 * k) :
    registersOf bs = (List.range k).map fun i => u16be (byteAt bs (2 * i)) (byteAt bs (2 * i + 1)) := by
  induction k generalizing bs with
  | zero => rw [List.length_eq_zero_iff.1 h]; rfl
  | succ k ih =>
    match bs, h with
    | hi :: lo :: rest, h =>
      have hrest : rest.length = 2 * k := by simp only [List.length_cons] at h; omega
      rw [registersOf, ih rest hrest, List.range_succ_eq_map, List.map_cons, List.map_map]
      rfl

/-- The registers behind a header of `k` bytes. -/
theorem registersOf_drop (bs : List Byte) (k n : Nat) (h : bs.length = k + 2 * n) :
    registersOf (bs.drop k) =
      (List.range n).map fun i => u16be (byteAt bs (k + 2 * i)) (byteAt bs (k + 2 * i + 1)) := by
  rw [registersOf_eq_map n _ (by rw [List.length_drop, h, Nat.add_sub_cancel_left])]
  simp only [byteAt_drop, Nat.add_assoc]

/-- The same operands, as those of REG.READ of `n` registers (log 15). -/
def Request.withPoints (r : Request) (n : Word) : Request := { r with points := some n }

/-- The same transaction, as that of REG.READ of `n` registers (log 15). -/
def State.withPoints (s : State) (n : Word) : State := { s with req := s.req.withPoints n }

section Decode

variable (s : State) (n : Word)

/-- The register decode leaves a failure of the transaction as it is, with no registers (R150, R161). -/
theorem afterRegisterDecode_fail (x : Status) (hx : x ≠ .ok) :
    afterRegisterDecode (s.fail x) n = (s.withPoints n).fail x := if_pos hx

/-- A payload of another length than `n` registers have (R150, R152). -/
theorem afterRegisterDecode_mismatch (hok : s.status = .ok)
    (hlen : (payloadOf s.rx).length ≠ s.params.rspHdrBytes + 2 * n.toNat) :
    afterRegisterDecode s n = { s.withPoints n with status := .lengthMismatch, resVals := [], resBytes := [] } :=
  (if_neg (not_not.2 hok)).trans (if_pos hlen)

/-- A payload of `n` registers (R150, R152). -/
theorem afterRegisterDecode_match (hok : s.status = .ok)
    (hlen : (payloadOf s.rx).length = s.params.rspHdrBytes + 2 * n.toNat) :
    afterRegisterDecode s n =
      { s.withPoints n with resVals := registersOf ((payloadOf s.rx).drop s.params.rspHdrBytes) } := by
  rw [registersOf_drop _ _ _ hlen]
  exact (if_neg (not_not.2 hok)).trans (if_neg (not_not.2 hlen))

/-- A good response: CH.TRANSACT answers it raw, REG.READ goes on to decode it (R130, R150). -/
theorem State.acceptResponse_withPoints (hpoints : s.req.points = none) :
    (s.withPoints n).acceptResponse = afterRegisterDecode s.acceptResponse n := by
  have hraw : s.acceptResponse = { s with resBytes := s.rx, status := .ok, chState := .idle } := by
    simp only [State.acceptResponse, hpoints]
  have hdecoded : (s.withPoints n).acceptResponse = (s.withPoints n).decodeRegisters n := rfl
  rw [hraw, hdecoded, State.decodeRegisters]
  by_cases hlen : (payloadOf s.rx).length = s.params.rspHdrBytes + 2 * n.toNat
  · rw [afterRegisterDecode_match { s with resBytes := s.rx, status := .ok, chState := .idle } n rfl hlen]
    exact if_neg (not_not.2 hlen)
  · rw [afterRegisterDecode_mismatch { s with resBytes := s.rx, status := .ok, chState := .idle } n rfl hlen]
    exact if_pos hlen

/-- The check of a candidate, with and without register decode (R138, R150). -/
theorem State.checkStep_withPoints (hpoints : s.req.points = none) :
    (s.withPoints n).checkStep = afterRegisterDecode s.checkStep n := by
  rcases Nat.lt_or_ge s.rx.length 6 with hshort | hsix
  · rw [s.checkStep_short hshort, (s.withPoints n).checkStep_short hshort, afterRegisterDecode_fail _ n _ (by decide)]
    rfl
  · by_cases hcrc : crc16 (checksumRegion s.rx) = checksumField s.rx
    · rw [s.checkStep_good hsix hcrc, (s.withPoints n).checkStep_good hsix hcrc]
      exact State.acceptResponse_withPoints { s with crcRem := crc16 (checksumRegion s.rx) } n hpoints
    · rw [s.checkStep_bad hsix hcrc, (s.withPoints n).checkStep_bad hsix hcrc, afterRegisterDecode_fail _ n _ (by decide)]
      rfl

/-- The last read of a transaction, with and without register decode (R73, R137). -/
theorem State.conclude_withPoints (hpoints : s.req.points = none) :
    (s.withPoints n).conclude = afterRegisterDecode s.conclude n := by
  have hrx : (s.withPoints n).rx = s.rx := rfl
  unfold State.conclude
  rw [hrx]
  cases readClass s.rx with
  | empty => exact (afterRegisterDecode_fail (s.emit .noResponse) n .noResponse (by decide)).symm
  | fillerLed => exact (afterRegisterDecode_fail s n .resyncExhausted (by decide)).symm
  | otherLed => exact (afterRegisterDecode_fail (s.emit (.framingError s.rx)) n .framingError (by decide)).symm
  | startLed => exact State.checkStep_withPoints { s with chState := .check } n hpoints

end Decode

section Refines

variable (s : State) (r : Request) (m : BitVec 18)

/-- The state in which a transaction of `s` that nothing falls into has made its last read (R136, R140). -/
def State.lastReadMade : State :=
  if readClass (read1 [] s m.toNat) = .fillerLed then
    s.inRx s.popDraw.popDraw r m 2 (read2 [] s m.toNat) (rest2 [] s m.toNat)
  else s.inRx s.popDraw r m 1 (read1 [] s m.toNat) (rest1 [] s m.toNat)

theorem State.lastReadMade_withPoints (n : Word) :
    s.lastReadMade (r.withPoints n) m = (s.lastReadMade r m).withPoints n := by
  unfold State.lastReadMade
  split <;> rfl

theorem State.lastReadMade_req : (s.lastReadMade r m).req = r := by
  unfold State.lastReadMade
  split <;> rfl

/-- A transaction that nothing falls into is its last read and what becomes of it (R130, R137). -/
theorem State.transact_eq_conclude (hq : s.quiet = true) : s.transact r m = (s.lastReadMade r m).conclude := by
  rw [s.transact_quiet r m hq, State.requestSent_eq_inRx]
  dsimp only
  rw [State.lineRead_inRx, State.lineRead_inRx, read1_rest1, rest1_rest1]
  exact (apply_ite State.conclude ..).symm

/-- With a register count among the operands, the register decode follows the transaction (R73, R150). -/
theorem State.transact_withPoints (n : Word) (hr : r.points = none) (hq : s.quiet = true) :
    s.transact (r.withPoints n) m = afterRegisterDecode (s.transact r m) n := by
  rw [s.transact_eq_conclude _ m hq, s.transact_eq_conclude r m hq, s.lastReadMade_withPoints,
    State.conclude_withPoints _ n (by rw [s.lastReadMade_req, hr])]

end Refines

/-- `exp_len` of a register read is never 0 (R151). -/
theorem expectedLength_ne_zero (n : Word) : expectedLength n ≠ 0 := fun h => by
  have hlen := expectedLength_toNat n
  rw [h] at hlen
  simp at hlen

/-- Settles O39: the two operations start the same transaction, but for the count among the operands. -/
theorem regReadIsTransactThenDecode : Obligations.RegReadIsTransactThenDecode := by
  intro a start n s hidle hq hn hmax
  refine ⟨_, exec_chTransact_idle a FC_READ_HOLDING (requestPayload start n) (expectedLength n) s hidle
    (expectedLength_ne_zero n), ?_⟩
  rw [exec_regRead_idle a start n s hidle hn hmax]
  exact congrArg Host.Outcome.next
    (s.transact_withPoints (rawRequest a FC_READ_HOLDING (requestPayload start n)) (expectedLength n) n rfl hq)

end Sys2Proof.Machine
end

section
/-! SUPPORT. The operations of the Checksum unit in IDLE, and what the shift structure of `crc16` gives: continuation, residue and
detection (R91, R93 to R97). -/

namespace Sys2Proof.Machine

section Operations

variable (s : State) (data : List Byte)

/-- CRC.COMPUTE (R93). -/
theorem exec_crcCompute_idle (h : s.chState = .idle) : exec (.crcCompute data) s = .next
    { s with crcRem := crc16 data, resCrc := crc16 data, resBytes := leBytes (crc16 data), status := .ok } :=
  congrArg Host.Outcome.next (s.whenIdle_idle _ h)

/-- CRC.VALIDATE (R94). -/
theorem exec_crcValidate_idle (x : Word) (h : s.chState = .idle) : exec (.crcValidate data x) s = .next
    { s with crcRem := crc16 data, resFlag := decide (crc16 data = x), status := .ok } :=
  congrArg Host.Outcome.next (s.whenIdle_idle _ h)

end Operations

/-- The empty sequence leaves the initial remainder (R91 step 1). -/
@[simp] theorem crc16_nil : crc16 [] = 0xFFFF := rfl

/-- The low byte shifts out first, and the high byte is then the low one. -/
theorem crcFrom_leBytes (r : Word) : crcFrom r (leBytes r) = 0 := by
  have hhigh : r.extractLsb' 8 8 = (r >>> 8).extractLsb' 0 8 := by
    ext i hi
    simp
  calc crcFrom r (leBytes r)
      = crcByte (crcByte r (r.extractLsb' 0 8)) (r.extractLsb' 8 8) := rfl
    _ = r >>> 8 >>> 8 := by rw [crcByte_low, hhigh, crcByte_low]
    _ = r >>> 16 := (BitVec.shiftRight_add r 8 8).symm
    _ = 0 := BitVec.ushiftRight_eq_zero (le_refl 16)

/-- Settles O11: the loop over a concatenation, from the initial remainder. -/
theorem checksumOfConcatenation : Obligations.ChecksumOfConcatenation := crcFrom_append CRC_INIT

/-- Settles O12: the loop goes on over the checksum's own bytes, which shift it out. -/
theorem checksumResidueIsZero : Obligations.ChecksumResidueIsZero := fun m =>
  (checksumOfConcatenation m _).trans (crcFrom_leBytes (crc16 m))

/-- Settles O13: different bytes after the same remainder give different remainders, which no later byte makes equal. -/
theorem checksumDetectsOneByte : Obligations.ChecksumDetectsOneByte := by
  intro pre post b b' hne heq
  rw [checksumOfConcatenation, checksumOfConcatenation] at heq
  have hbyte : crcByte (crc16 pre) b = crcByte (crc16 pre) b' := crcFrom_injective post heq
  exact hne (crcByte_injective_right (crc16 pre) hbyte)

/-- Settles O8. -/
theorem crcComputeResult : Obligations.CrcComputeResult :=
  ⟨fun _ => rfl, fun data s hidle => ⟨_, exec_crcCompute_idle s data hidle⟩, crc16_nil, by rw [crc16_nil]; rfl,
    by decide +kernel, by decide +kernel⟩

/-- Settles O9. -/
theorem crcValidateResult : Obligations.CrcValidateResult :=
  ⟨fun _ _ => rfl, fun data x s hidle => ⟨_, exec_crcValidate_idle s data x hidle⟩, fun _ => by rw [crc16_nil, eq_comm],
    by decide +kernel, by decide +kernel⟩

/-- Settles O10: CRC.COMPUTE leaves the state in IDLE, and CRC.VALIDATE compares the same remainder. -/
theorem validateAcceptsCompute : Obligations.ValidateAcceptsCompute := fun b s hidle =>
  ⟨_, _, exec_crcCompute_idle s b hidle, exec_crcValidate_idle _ b _ hidle, decide_eq_true rfl, rfl⟩

end Sys2Proof.Machine
end

section
/-! SUPPORT. The length of an encoded frame (R102). -/

namespace Sys2Proof.Machine

/-- Settles O5: the length law, and the law at the four bytes of a register request's payload. -/
theorem encodedFrameLength : Obligations.EncodedFrameLength :=
  ⟨encodeFrame_length, fun a f p hfour => by rw [encodeFrame_length, hfour]⟩

end Sys2Proof.Machine
end

section
/-! SUPPORT. What a search of the decoder buffer answers, in each of its cases and in the buffer it leaves (R112 to R115). -/

namespace Sys2Proof.Machine

section Search

variable (noise rest body tail : List Byte)

/-- The bytes in front of the first START have no part in what is found (R112 step 2). -/
theorem scan_drop_noise (h : START ∉ noise) : scan (noise ++ START :: rest) = scan (START :: rest) :=
  (scan_of_noise noise rest h).trans (scan_of_noise [] rest List.not_mem_nil).symm

/-- A search of the buffer that a search left finds the same again (R115). -/
theorem scan_scan_buf (buf : List Byte) : scan (scan buf).buf = scan buf := by
  rcases scan_cases buf with ⟨-, h⟩ | ⟨noise, rest, rfl, hn, h⟩ | ⟨noise, body, tail, rfl, hn, -, -, h⟩
  · rw [h]
    exact h
  · rw [h, Scan.notReady, ← scan_drop_noise noise rest hn, h]
    rfl
  · rw [h, scanSpan, ← scan_drop_noise noise _ hn, h]
    rfl

/-- The remainder that a search leaves does not depend on the one before it, unless it is the one before it. -/
theorem scanRemainder_scanRemainder (old : Word) (r : Scan) :
    scanRemainder (scanRemainder old r) r = scanRemainder old r := by
  unfold scanRemainder
  split <;> rfl

/-- The checksummed region of a span `START body END` is its body without the two checksum bytes (R98, R113). -/
theorem spanRegion_span :
    spanRegion (START :: (body ++ END :: tail)) (body.length + 1) = body.take (body.length - 2) := by
  rw [spanRegion, slice, List.drop_take, List.drop_one, List.tail_cons,
    List.take_append_of_le_length (by omega)]
  congr 1

/-- The checksum that a span `START body END` carries: the two bytes in front of END, low byte first (R42, R113). -/
def spanChecksum : Word := u16le (byteAt (START :: body) (body.length - 1)) (byteAt (START :: body) body.length)

/-- The fields of a span of three bytes or more, by their positions in its body (R113, R114). -/
theorem scanSpan_span (h : body ≠ []) :
    scanSpan (START :: (body ++ END :: tail)) (body.length + 1) =
      { buf := START :: (body ++ END :: tail)
        hdrLen := body.length + 2
        hdrAddr := byteAt body 0
        hdrCrc := spanChecksum body
        ready := true
        valid := decide (6 ≤ body.length + 2 ∧ crc16 (body.take (body.length - 2)) = spanChecksum body) } := by
  have inBody : ∀ i ≤ body.length, byteAt (START :: (body ++ END :: tail)) i = byteAt (START :: body) i :=
    fun i hi => byteAt_append_left (START :: body) (END :: tail) i (Nat.lt_succ_of_le hi)
  have haddr : byteAt (START :: (body ++ END :: tail)) 1 = byteAt body 0 := inBody 1 (List.length_pos_iff.2 h)
  have hcrc : u16le (byteAt (START :: (body ++ END :: tail)) (body.length + 1 - 2))
      (byteAt (START :: (body ++ END :: tail)) (body.length + 1 - 1)) = spanChecksum body := by
    rw [inBody _ (by omega), inBody _ (by omega)]
    rfl
  simp only [scanSpan, haddr, hcrc, spanRegion_span, MIN_FRAME, Bool.decide_and, beq_eq_decide]

/-- A START, and the last END with at least one byte between them: the span from the one to the other (R112). -/
theorem scan_of_span (hn : START ∉ noise) (ht : END ∉ tail) (hb : body ≠ []) :
    scan (noise ++ START :: (body ++ END :: tail)) = scanSpan (START :: (body ++ END :: tail)) (body.length + 1) := by
  rw [scan_of_noise noise _ hn, scanFromStart_of_span body tail ht, if_neg hb]

end Search

section Searched

variable (s : State)

/-- The state after a search, by what the search answers (R34; log 7). -/
theorem State.searched_of_scan (d : Scan) (h : scan s.buf = d) : s.searched =
    { s.withDecoder d with resCrc := d.hdrCrc, crcRem := scanRemainder s.crcRem d, status := .ok } := by
  rw [State.searched, h]

/-- A search that finds no span clears latches and flags, and evaluates no checksum (R112, R114; log 7). -/
theorem State.searched_notReady (buf : List Byte) (h : scan s.buf = Scan.notReady buf) : s.searched =
    { s with
      buf := buf
      hdrLen := 0, hdrAddr := 0, hdrCrc := 0, ready := false, valid := false, resCrc := 0, status := .ok } :=
  s.searched_of_scan _ h

/-- A second search changes nothing (R115). -/
theorem State.searched_searched : s.searched.searched = s.searched := by
  have hscratch : scanRemainder s.searched.crcRem (scan s.buf) = s.searched.crcRem :=
    scanRemainder_scanRemainder s.crcRem (scan s.buf)
  rw [s.searched.searched_of_scan (scan s.buf) (scan_scan_buf s.buf), hscratch]
  rfl

end Searched

/-- Settles O17: what the search answers in each of the four cases, as the state that it leaves. -/
theorem tryDecodeOutcomes : Obligations.TryDecodeOutcomes := by
  intro s hidle
  have outcome : ∀ t, s.searched = t → exec .frmTryDecode s = .next t :=
    fun t ht => (exec_frmTryDecode_idle s hidle).trans (congrArg Host.Outcome.next ht)
  refine ⟨fun hstart => ?noStart, fun noise rest hbuf hn hend => ?noEnd, fun noise body tail hbuf hn ht hb => ?shortSpan,
    fun noise body tail hbuf hn ht hb => ?span⟩
  case noStart => exact outcome _ (s.searched_notReady s.buf (scan_of_no_start s.buf hstart))
  case noEnd =>
    have hscan : scan s.buf = Scan.notReady (START :: rest) := by
      rw [hbuf, scan_of_noise noise rest hn, scanFromStart_of_no_end rest hend]
    exact outcome _ (s.searched_notReady _ hscan)
  case shortSpan =>
    have hscan : scan s.buf = Scan.notReady (START :: END :: tail) := by
      rw [hbuf, scan_of_noise noise _ hn, scanFromStart_of_span body tail ht, if_pos hb, hb, List.nil_append]
    exact outcome _ (s.searched_notReady _ hscan)
  case span =>
    have hscan := scan_of_span noise body tail hn ht hb
    rw [← hbuf, scanSpan_span body tail hb] at hscan
    exact ⟨_, spanChecksum body, rfl, outcome _ (s.searched_of_scan _ hscan)⟩

/-- Settles O18. -/
theorem tryDecodeIdempotent : Obligations.TryDecodeIdempotent := fun s hidle =>
  ⟨s.searched, exec_frmTryDecode_idle s hidle,
    (exec_frmTryDecode_idle s.searched hidle).trans (congrArg Host.Outcome.next s.searched_searched)⟩

end Sys2Proof.Machine
end

section
/-! SUPPORT. The other operations on the decoder in IDLE: bytes fed or refused, the payload, the span dropped, the reset (R111, R116
to R118). -/

namespace Sys2Proof.Machine

/-- A buffer fits when no capacity is exceeded (D11). -/
theorem fits_iff (cap : Option Nat) (n : Nat) : fits cap n = true ↔ ∀ c, cap = some c → n ≤ c := by
  cases cap <;> simp [fits]

section Decoder

variable (s : State) (data : List Byte)

/-- FRM.FEED of bytes for which there is no room (R111). -/
theorem exec_frmFeed_full (h : s.chState = .idle) (hfull : ¬ fits s.params.bufCap (s.buf.length + data.length) = true) :
    exec (.frmFeed data) s = .next s.refuse :=
  congrArg Host.Outcome.next ((s.whenIdle_idle _ h).trans (if_neg hfull))

/-- FRM.PAYLOAD without a valid frame (R116). -/
theorem exec_frmPayload_invalid (h : s.chState = .idle) (hvalid : s.valid = false) :
    exec .frmPayload s = .next { s with resBytes := [], status := .refused } :=
  congrArg Host.Outcome.next ((s.whenIdle_idle _ h).trans (if_neg (Bool.eq_false_iff.1 hvalid)))

/-- FRM.ADVANCE: nothing is found any more in what stands behind the span (R117). -/
theorem exec_frmAdvance_idle (h : s.chState = .idle) : exec .frmAdvance s = .next
    { s.withDecoder (Scan.notReady (s.buf.drop s.hdrLen)) with status := .ok } :=
  congrArg Host.Outcome.next (s.whenIdle_idle _ h)

/-- FRM.RESET: nothing is found in an empty buffer (R118). -/
theorem exec_frmReset_idle (h : s.chState = .idle) : exec .frmReset s = .next
    { s.withDecoder (Scan.notReady []) with status := .ok } :=
  congrArg Host.Outcome.next (s.whenIdle_idle _ h)

end Decoder

/-- Settles O16: room or no room; the example and the empty sequence are bytes for which there is room. -/
theorem frmFeedResult : Obligations.FrmFeedResult := by
  refine ⟨fun _ => rfl, fun data s hidle => ⟨fun hroom => ?_, fun c hcap hover => ?_⟩, fun s hidle hcap hbuf => ?_,
    fun s hidle hfits => ?_⟩
  · exact exec_frmFeed_fits s data hidle ((fits_iff _ _).2 hroom)
  · exact exec_frmFeed_full s data hidle fun hfits => Nat.not_le.2 hover ((fits_iff _ _).1 hfits c hcap)
  · rw [exec_frmFeed_fits s [0x03] hidle (by rw [hcap]; rfl), hbuf]
    rfl
  · rw [exec_frmFeed_fits s [] hidle hfits, List.append_nil]

/-- Settles O19. -/
theorem frmPayloadResult : Obligations.FrmPayloadResult := fun s hidle =>
  ⟨exec_frmPayload_valid s hidle, exec_frmPayload_invalid s hidle⟩

/-- Settles O20: the span is dropped by its length alone, whether it was valid or not. -/
theorem frmAdvanceResult : Obligations.FrmAdvanceResult := exec_frmAdvance_idle

/-- Settles O21. -/
theorem frmResetResult : Obligations.FrmResetResult :=
  ⟨rfl, exec_frmReset_idle, fun s hidle _ => ⟨_, exec_frmReset_idle s hidle, rfl⟩⟩

end Sys2Proof.Machine
end

section
/-! SUPPORT. A frame of the encoder in the decoder's buffer, with other bytes in front of it and behind it: found, its payload taken,
dropped, and followed by the next one (R111, R112, R116, R117, R119, R187). -/

namespace Sys2Proof.Machine

open Sys2Proof.Spec

section Frames

variable (a f : Byte) (p tail noise data : List Byte) (s : State)

/-- The decoder that holds a frame of the encoder as found, with `tail` behind it (R113, R114). -/
def frameFound : Scan :=
  { buf := encodeFrame a f p ++ tail, hdrLen := p.length + 6, hdrAddr := a
    hdrCrc := crc16 (frameBody a f p), ready := true, valid := true }

/-- A frame is found between noise without START and bytes without END (R112, R114, R187). -/
theorem scan_frame (hn : START ∉ noise) (ht : END ∉ tail) :
    scan (noise ++ (encodeFrame a f p ++ tail)) = frameFound a f p tail :=
  (scan_of_noise noise _ hn).trans (scanFromStart_encodeFrame a f p tail ht)

/-- The search of a buffer that is one frame (R101 (c)). -/
theorem State.searched_frame (hbuf : s.buf = encodeFrame a f p) : s.searched.decoder = frameFound a f p [] := by
  rw [s.searched_decoder, hbuf, ← scan_frame a f p [] [] List.not_mem_nil List.not_mem_nil, List.append_nil,
    List.nil_append]

variable {a f p tail s}

/-- Bytes fed behind a found frame leave it found (R111). -/
theorem State.fed_frameFound (hd : s.decoder = frameFound a f p tail) :
    State.decoder { s with buf := s.buf ++ data, status := .ok } = frameFound a f p (tail ++ data) := by
  have happend : State.decoder { s with buf := s.buf ++ data, status := .ok } =
      { s.decoder with buf := s.decoder.buf ++ data } := rfl
  rw [happend, hd, frameFound, frameFound, List.append_assoc]

/-- FRM.PAYLOAD of a found frame gives its payload, whatever stands behind it (R116). -/
theorem exec_frmPayload_frameFound (h : s.chState = .idle) (hd : s.decoder = frameFound a f p tail) :
    exec .frmPayload s = .next { s with resBytes := p, status := .ok } := by
  have hslice : slice s.buf 3 (s.hdrLen - 3) = p :=
    calc slice s.buf 3 (s.hdrLen - 3)
      _ = slice (encodeFrame a f p ++ tail) 3 (p.length + 6 - 3) :=
          congrArg (fun d : Scan => slice d.buf 3 (d.hdrLen - 3)) hd
      _ = slice (encodeFrame a f p) 3 (p.length + 6 - 3) :=
          slice_append _ _ _ _ (by rw [encodeFrame_length]; omega)
      _ = p := slice_encodeFrame a f p
  rw [exec_frmPayload_valid s h (congrArg Scan.valid hd), hslice]

/-- FRM.ADVANCE drops a found frame and nothing else (R117). -/
theorem exec_frmAdvance_frameFound (h : s.chState = .idle) (hd : s.decoder = frameFound a f p tail) :
    exec .frmAdvance s = .next { s.withDecoder (Scan.notReady tail) with status := .ok } := by
  have hdrop : s.buf.drop s.hdrLen = tail :=
    calc s.buf.drop s.hdrLen
      _ = (encodeFrame a f p ++ tail).drop (p.length + 6) := congrArg (fun d : Scan => d.buf.drop d.hdrLen) hd
      _ = tail := List.drop_left' (encodeFrame_length a f p)
  rw [exec_frmAdvance_idle s h, hdrop]

end Frames

/-- Settles O23: the search finds the frame (`scan_frame`), and FRM.PAYLOAD leaves the decoder as it is. -/
theorem frameBetweenNoiseDecodes : Obligations.FrameBetweenNoiseDecodes := by
  intro noise tail a f p s hidle hn ht hbuf
  have hd : s.searched.decoder = frameFound a f p tail := by
    rw [s.searched_decoder, hbuf, scan_frame a f p tail noise hn ht]
  exact ⟨s.searched, { s.searched with resBytes := p, status := .ok }, _, exec_frmTryDecode_idle s hidle,
    congrArg Scan.valid hd, congrArg Scan.hdrAddr hd, congrArg Scan.buf hd, exec_frmPayload_frameFound hidle hd, rfl,
    exec_frmAdvance_frameFound hidle hd, rfl, rfl, rfl⟩

/-- Settles O24: the first frame stays found with the second behind it, and the second is what the advance leaves to search. -/
theorem backToBackDecoding : Obligations.BackToBackDecoding := by
  intro a f a' f' p p' s hidle hbuf hfits
  let second := encodeFrame a' f' p'
  have hfirst : s.searched.decoder = frameFound a f p [] := s.searched_frame a f p hbuf
  have hroom : fits s.searched.params.bufCap (s.searched.buf.length + second.length) = true := by
    have hheld : s.searched.buf = encodeFrame a f p ++ [] := congrArg Scan.buf hfirst
    rw [hheld, List.append_nil, encodeFrame_length, show second.length = p'.length + 6 from encodeFrame_length a' f' p']
    exact hfits
  let fed : State := { s.searched with buf := s.searched.buf ++ second, status := .ok }
  have hboth : fed.decoder = frameFound a f p second := State.fed_frameFound second hfirst
  let taken : State := { fed with resBytes := p, status := .ok }
  let advanced : State := { taken.withDecoder (Scan.notReady second) with status := .ok }
  have hsecond : advanced.searched.decoder = frameFound a' f' p' [] := advanced.searched_frame a' f' p' rfl
  exact ⟨taken, advanced.searched, _,
    ⟨s.searched, exec_frmTryDecode_idle s hidle, fed, exec_frmFeed_fits s.searched second hidle hroom, taken,
      exec_frmPayload_frameFound hidle hboth, rfl⟩, rfl,
    ⟨advanced, exec_frmAdvance_frameFound hidle hboth, _, exec_frmTryDecode_idle advanced hidle, rfl⟩,
    (congrArg Scan.buf hsecond).trans (List.append_nil _), congrArg Scan.valid hsecond, congrArg Scan.hdrAddr hsecond,
    exec_frmPayload_frameFound hidle hsecond, rfl⟩

end Sys2Proof.Machine
end

section
/-! SUPPORT. A response that is one frame, through the Channel and through the decoder (R116, R138, R143, R152). -/

namespace Sys2Proof.Machine

open Sys2Proof.Spec

/-- A frame fed to an empty decoder is found, and its payload taken (R101 (c), R116). -/
theorem runs_decode_frame (a f : Byte) (p : List Byte) (s : State) (hidle : s.chState = .idle) (hbuf : s.buf = [])
    (hfits : fits s.params.bufCap (p.length + 6) = true) :
    ∃ u, Runs [.frmFeed (encodeFrame a f p), .frmTryDecode, .frmPayload] s u ∧ u.decoder = frameFound a f p [] ∧
      u.resBytes = p := by
  let fed : State := { s with buf := s.buf ++ encodeFrame a f p, status := .ok }
  have hroom : fits s.params.bufCap (s.buf.length + (encodeFrame a f p).length) = true := by
    simpa [hbuf, encodeFrame_length] using hfits
  have hfound : fed.searched.decoder = frameFound a f p [] := fed.searched_frame a f p (by simp [fed, hbuf])
  exact ⟨_, ⟨fed, exec_frmFeed_fits s _ hidle hroom, _, exec_frmTryDecode_idle fed hidle, _,
    exec_frmPayload_frameFound hidle hfound, rfl⟩, hfound, rfl⟩

/-- A transaction of CH.TRANSACT whose first read takes a frame whole (R130, R138). -/
theorem State.transact_frame (s : State) (r : Request) (n : BitVec 18) (a f : Byte) (p : List Byte) (hq : s.quiet = true)
    (hr : r.points = none) (hrx : (s.firstRead r n).rx = encodeFrame a f p) :
    s.transact r n =
      { s.firstRead r n with
        crcRem := crc16 (frameBody a f p), resBytes := encodeFrame a f p, status := .ok, chState := .idle } := by
  have hpoints : (s.firstRead r n).req.points = none := by rw [s.firstRead_req, hr]
  rw [s.transact_firstRead r n hq (by rw [hrx, encodeFrame_eq_wrap, readClass_wrap]; decide),
    State.conclude_wrap _ (frameBody a f p) END hrx (by simp), State.acceptResponse]
  simp only [hpoints, hrx]

/-- The reads of a transaction leave the decoder alone (R26, R143). -/
theorem State.firstRead_buf (s : State) (r : Request) (n : BitVec 18) : (s.firstRead r n).buf = s.buf := by
  simp [State.firstRead, State.requestSent]

/-- Settles O34: the first read takes the frame whole, so the Channel accepts it, and the same bytes fed to the decoder are found. -/
theorem receivePathsAgree : Obligations.ReceivePathsAgree := by
  intro a f a' f' p p' n k s hidle hq hbuf hfits hdraw hk hlen
  have hn : n ≠ 0 := by
    rintro rfl
    simp at hlen
  let r := rawRequest a f p
  have hrx : (s.firstRead r n).rx = encodeFrame a' f' p' := by
    rw [← encodeFrame_length a' f' p'] at hk hlen
    rw [s.firstRead_rx, hdraw, lineReadResult_whole _ _ _ hk hlen]
  let t : State := { s.firstRead r n with
    crcRem := crc16 (frameBody a' f' p'), resBytes := encodeFrame a' f' p', status := .ok, chState := .idle }
  have ht : exec (.chTransact a f p n) s = .next t :=
    (exec_chTransact_idle a f p n s hidle hn).trans
      (congrArg Host.Outcome.next (s.transact_frame r n a' f' p' hq rfl hrx))
  obtain ⟨u, hruns, hfound, hpayload⟩ := runs_decode_frame a' f' p' t rfl ((s.firstRead_buf r n).trans hbuf)
    (by rw [show t.params = s.params from s.firstRead_params r n]; exact hfits)
  have hslice : payloadOf t.rx = p' := by rw [show t.rx = _ from hrx, encodeFrame_eq_wrap, payloadOf_wrap]
  exact ⟨t, u, ht, rfl, rfl, hruns, congrArg Scan.valid hfound, congrArg Scan.hdrAddr hfound, hpayload,
    hpayload.trans hslice.symm⟩

end Sys2Proof.Machine
end

section
/-! SUPPORT. The sequencer transition by transition, in the terms of the statements: the move out of each state, where a read leads,
and the accepted response of a register read (R131, R137 to R139, R152). -/

namespace Sys2Proof.Machine

open Sys2Proof.Spec

section Transitions

variable (s : State)

theorem State.seqStep_idle (h : s.chState = .idle) : s.seqStep = s := by simp only [State.seqStep, h]

theorem State.seqStep_drain (h : s.chState = .drain) : s.seqStep = s.drainStep := by simp only [State.seqStep, h]

theorem State.seqStep_settle (h : s.chState = .settle) : s.seqStep = s.settleStep := by simp only [State.seqStep, h]

theorem State.seqStep_tx (h : s.chState = .tx) : s.seqStep = s.transmitStep := by simp only [State.seqStep, h]

theorem State.seqStep_rx (h : s.chState = .rx) : s.seqStep = s.readStep := by simp only [State.seqStep, h]

theorem State.seqStep_check (h : s.chState = .check) : s.seqStep = s.checkStep := by simp only [State.seqStep, h]

/-- `t` is where a transition of `s` from RX may lead: the end of the transaction, the check, or RX once more after a first,
filler-led read (R131, R136, R137). -/
def State.LeavesRx (s t : State) : Prop :=
  t.chState = .idle ∨ t.chState = .check ∨
    (t.chState = .rx ∧ s.attempt = 0 ∧ t.attempt = 1 ∧ t.rx.head? = some FILLER)

/-- Only a first read that is filler-led comes back to RX (R69, R136). -/
theorem State.leavesRx_afterRead (d : LineDraw) (h : s.chState = .rx) : s.LeavesRx (afterRead s d) := by
  rcases read_cases (s.lineRead d).rx with hr | ⟨rest, hr⟩ | ⟨b, rest, hr, hf, hs⟩ | ⟨rest, hr⟩
  · rw [afterRead_empty s d hr]
    exact .inl rfl
  · rw [afterRead_filler s d rest hr]
    split
    · have hfirst : s.attempt = 0 := ‹_›
      refine .inr (.inr ⟨h, hfirst, ?_, ?_⟩)
      · rw [State.lineRead_attempt, hfirst]
      · rw [hr, List.head?_cons]
    · exact .inl rfl
  · rw [afterRead_other s d b rest hr hf hs]
    exact .inl rfl
  · rw [afterRead_start s d rest hr]
    exact .inr (.inl rfl)

/-- With no attempt left, RX ends the transaction without a read (R139; log 17). -/
theorem State.leavesRx_readStep (h : s.chState = .rx) : s.LeavesRx s.readStep := by
  by_cases hbudget : s.attempt < 2
  · have leaves := s.popDraw.leavesRx_afterRead s.nextDraw (s.popDraw_chState.trans h)
    rw [s.readStep_eq_afterRead hbudget]
    rwa [State.LeavesRx, s.popDraw_attempt] at leaves
  · have exhausted : s.readStep = s.fail .resyncExhausted := if_neg hbudget
    rw [exhausted]
    exact .inl rfl

/-- A good response of CH.TRANSACT is its result (R130). -/
theorem State.acceptResponse_raw (h : s.req.points = none) :
    s.acceptResponse = { s with resBytes := s.rx, status := .ok, chState := .idle } := by
  simp only [State.acceptResponse, h]

/-- A good response of REG.READ is what CH.TRANSACT would answer, decoded (R73, R152). -/
theorem State.acceptResponse_decoded (n : Word) (h : s.req.points = some n) :
    s.acceptResponse = afterRegisterDecode { s with resBytes := s.rx, status := .ok, chState := .idle } n := by
  let raw : State := { s with req := { s.req with points := none } }
  have hs : raw.withPoints n = s := by
    simp only [raw, State.withPoints, Request.withPoints, ← h]
  calc s.acceptResponse
    _ = (raw.withPoints n).acceptResponse := by rw [hs]
    _ = afterRegisterDecode raw.acceptResponse n := raw.acceptResponse_withPoints n rfl
    _ = afterRegisterDecode { s with resBytes := s.rx, status := .ok, chState := .idle } n := rfl

end Transitions

/-- Settles O35: the move of each state, RX by `State.readStep_eq_afterRead` and `State.leavesRx_readStep`, CHECK by the length and
the checksum of the candidate, and then by the operation in progress. -/
theorem sequencerTransitions : Obligations.SequencerTransitions := by
  intro s
  refine ⟨s.seqStep_idle, s.seqStep_drain, s.seqStep_settle, fun htx => ⟨_, s.seqStep_tx htx⟩, fun hrx hbudget => ?_,
    fun hrx => ?_, fun hcheck => ?_⟩
  · rw [s.seqStep_rx hrx, s.readStep_eq_afterRead hbudget]
  · rw [s.seqStep_rx hrx]
    exact s.leavesRx_readStep hrx
  · rw [s.seqStep_check hcheck]
    refine ⟨s.checkStep_short, fun hsix => ⟨fun hbad => ⟨_, s.checkStep_bad hsix hbad⟩, fun hgood => ?_⟩⟩
    refine ⟨crc16 (checksumRegion s.rx), ?_⟩
    rw [s.checkStep_good hsix hgood]
    exact ⟨State.acceptResponse_raw { s with crcRem := crc16 (checksumRegion s.rx) },
      State.acceptResponse_decoded { s with crcRem := crc16 (checksumRegion s.rx) }⟩

/-- Settles O36: the sequencer is given as many transitions as any state needs (`State.transitionsLeft_le`). -/
theorem transactionTerminates : Obligations.TransactionTerminates := fun s hbusy hq =>
  ⟨_, step_of_quiet s hbusy hq, s.runSequencer_ends maxTransitions hq s.transitionsLeft_le⟩

end Sys2Proof.Machine
end

section
/-! SUPPORT. What an accepted CH.TRANSACT ends with: the outcome by its reads, and what of its request the line has been given (R134,
R140, R180). -/

namespace Sys2Proof.Machine

open Sys2Proof.Spec

section Outcome

variable (q : List Byte) (s : State) (a f : Byte) (p : List Byte) (n : BitVec 18)

theorem afterTransact_outcome :
    ((afterTransact q s a f p n).status, (afterTransact q s a f p n).attempt) =
      outcome (readKind (read1 q s n.toNat)) (readKind (read2 q s n.toNat)) := rfl

theorem afterTransact_sent : (afterTransact q s a f p n).sent = s.sent ++ encodeFrame a f p := rfl

end Outcome

/-- Settles O26: the state of `transactWholeState` has the table's outcome, and the draws and the read of one attempt or of two. -/
theorem transactOutcomeTable : Obligations.TransactOutcomeTable := by
  intro a f p n s hidle hq hn
  refine ⟨_, transactWholeState a f p n s hidle hq hn, afterTransact_outcome [] s a f p n, fun honce => ?_, fun htwice => ?_⟩
  · rw [afterTransact_once [] s a f p n honce]
    exact ⟨rfl, rfl, rfl⟩
  · rw [afterTransact_twice [] s a f p n htwice]
    rfl

/-- Settles O30. -/
theorem requestSentOnce : Obligations.RequestSentOnce := fun a f p n s hidle hq hn =>
  ⟨_, transactWholeState a f p n s hidle hq hn, afterTransact_sent [] s a f p n⟩

/-- Settles O53: the transaction stops in TX with nothing written (`State.transact_stops`), and the reset input that falls in there
lets the first `w` bytes out (`resetInputAborts`). -/
theorem abortedRequestStaysPartlySent : Obligations.AbortedRequestStaysPartlySent := by
  intro a f p n w acts s hidle hn hin
  let t := s.reaches (rawRequest a f p) n .tx
  have stops : s.transact (rawRequest a f p) n = t := s.transact_stops (rawRequest a f p) n _ acts hin (.inr (.inr (.inl rfl)))
  obtain ⟨u, hstep, -, -, -, -, -, -, hended, hattempt, -, -, hstatus, -, -, -, -, -, -, hinbox, -, hsent⟩ :=
    resetInputAborts t .tx w acts ((s.reaches_inbox _ n .tx).trans hin) (.inr rfl)
  exact ⟨t, u, (exec_chTransact_idle a f p n s hidle hn).trans (congrArg Host.Outcome.next stops), rfl, rfl, hstep, hsent rfl,
    hended, hstatus, hattempt, hinbox⟩

end Sys2Proof.Machine
end

section
/-! SUPPORT. Every instruction, every act and every step answers a next state (R160). -/

namespace Sys2Proof.Machine

/-- Each row of the operation table has an arm, and the arm answers a next state; an operation that is refused answers one too, with
`status` REFUSED (R49, R70). -/
theorem exec_answers_next (i : Instr) (s : State) : ∃ t, exec i s = .next t := by
  cases i <;> exact ⟨_, rfl⟩

theorem perform_answers_next (a : Act) (s : State) : ∃ t, perform a s = .next t := by
  cases a with
  | op c => exact exec_answers_next (decodeCommand c) s
  | line bs => exact ⟨s.lineAppend bs, perform_line bs s⟩
  | read bs => exact exec_answers_next (decodeRead bs) s
  | reset => exact ⟨s.resetInput, rfl⟩

theorem step_answers_next (s : State) : ∃ t, step s = .next t := by
  rcases step_cases s with ⟨e, acts, -, -, taken⟩ | ⟨-, sequencer⟩
  · rw [taken]
    exact perform_answers_next e.act _
  · exact ⟨_, sequencer⟩

/-- Settles O50: an instruction by its arm, a step by the act it takes or by the sequencer going on. -/
theorem nothingStopsTheBlock : Obligations.NothingStopsTheBlock := ⟨exec_answers_next, step_answers_next⟩

end Sys2Proof.Machine
end
